-- ==== Sys2Proof/Word.lean ====
section
/-! DEFINITION. The words of the block: the byte of a frame and of an operation word, the key codes. -/

namespace Sys2Proof

/-- One byte, of a frame (R34) or of the operation stream (R111). -/
abbrev Byte := BitVec 8

/-- A key code as an operation carries it: five bits, 0..31, of which 16..31 are invalid (R118, R121). -/
abbrev KeyCode := BitVec 5

/-- A key the injector can hold: a valid code 0..15 (R45, R121). -/
abbrev Key := Fin 16

end Sys2Proof
end

