-- ==== Sys2Proof/Syntax.lean ====
section
/-! DEFINITION. The operation set of R110: one constructor per row of the opcode table. -/

namespace Sys2Proof

/-- The eleven operations of the block (R110), with their operands (R116). -/
inductive Instr where
  /-- `EDGE l`: a transition of the clock line, after which it reads `l` (R160) -/
  | edge (l : Bool)
  /-- `SAMPLE d`: the sample timer fires while the other parties drive the data line to `d` (R180) -/
  | sample (d : Bool)
  /-- `WRKEY k`: stage one keystroke (R230) -/
  | wrkey (k : KeyCode)
  /-- `WRSEQ k1..kn`: stage a key sequence, 0 ≤ n ≤ 31 (R233) -/
  | wrseq (ks : List KeyCode)
  /-- `POLLP`: poll the panel frame (R260) -/
  | pollp
  /-- `POLLM`: poll the module frame (R280) -/
  | pollm
  /-- `STATUS`: read the status word (R282) -/
  | status
  /-- `ACKOVF`: acknowledge the overflow flag (R284) -/
  | ackovf
  /-- `RESET`: restart the block (R330) -/
  | reset
  /-- `CONFIG m r`: the configuration switches (R290) -/
  | config (m r : Bool)
  /-- `WAIT Δ`: Δ microseconds pass (R166) -/
  | wait (delta : BitVec 24)
deriving DecidableEq, Repr

/-- The contexts an operation can come from (R310). -/
inductive Context where
  | interrupt
  | application
  | environment
deriving DecidableEq, Repr

/-- The context column of R110, as R310 states it. -/
def Instr.context : Instr → Context
  | .edge _ => .interrupt
  | .sample _ => .interrupt
  | .wait _ => .environment
  | .reset => .environment
  | .wrkey _ => .application
  | .wrseq _ => .application
  | .pollp => .application
  | .pollm => .application
  | .status => .application
  | .ackovf => .application
  | .config _ _ => .application

end Sys2Proof
end

