-- ==== Sys2Proof/WellFormed.lean ====
section
/-! DEFINITION. Which terms of `Instr` have an encoding. Every operand's width is in its type but one: the count of a
key sequence is a five-bit field (R113). -/

namespace Sys2Proof

/-- A WRSEQ holds at most 31 key codes (R113, R136); every other operand fits its field by its type. -/
def Instr.wellFormed : Instr → Bool
  | .wrseq ks => decide (ks.length ≤ 31)
  | .edge _ => true
  | .sample _ => true
  | .wrkey _ => true
  | .pollp => true
  | .pollm => true
  | .status => true
  | .ackovf => true
  | .reset => true
  | .config _ _ => true
  | .wait _ => true

end Sys2Proof
end

