-- ==== Sys2Proof/Decode.lean ====
section
/-! DEFINITION. The decoder of operation words (R111 to R119), total on any bytes, and the encoder beside it. -/

namespace Sys2Proof

/-- Why a stream gives no operation: nothing left in it, a reserved encoding (R117), or a stream that ends inside an
operation (R115). -/
inductive DecodeError where
  | noOperation
  | reserved
  | incomplete
deriving DecidableEq, Repr

/-- The class field `op[7:5]` (R111). -/
def opClass (op : Byte) : BitVec 3 := op.extractLsb' 5 3

/-- The argument field `op[4:0]` (R111). -/
def opArg (op : Byte) : BitVec 5 := op.extractLsb' 0 5

/-- What a first byte says (R112): a whole one-byte operation, the header of a WRSEQ with `n` key bytes, the header of
a WAIT, or a reserved encoding. -/
inductive Head where
  | single (i : Instr)
  | sequence (n : Nat)
  | wait
  | reserved
deriving DecidableEq, Repr

/-- The opcode map of R112, the reserved ranges of R117, the operand fields of R116. -/
def decodeHead (op : Byte) : Head :=
  let a := opArg op
  match (opClass op).toNat with
  | 0 => if a.extractLsb' 1 4 = 0 then .single (.edge (a.getLsbD 0)) else .reserved
  | 1 => if a.extractLsb' 1 4 = 0 then .single (.sample (a.getLsbD 0)) else .reserved
  | 2 => .single (.wrkey a)
  | 3 => .sequence a.toNat
  | 4 => if a = 0 then .single .pollp else .reserved
  | 5 => if a = 0 then .single .pollm else .reserved
  | 6 =>
    if a = 0 then .single .status
    else if a = 1 then .single .ackovf
    else if a = 2 then .single .reset
    else if a.extractLsb' 2 3 = 0b100 then .single (.config (a.getLsbD 1) (a.getLsbD 0))
    else .reserved
  | _ => if a = 0 then .wait else .reserved

/-- The length of an operation, from its first byte alone (R115). -/
def opLength (op : Byte) : Nat :=
  match decodeHead op with
  | .sequence n => 1 + n
  | .wait => 4
  | .single _ => 1
  | .reserved => 1

/-- A key byte `000kkkkk` (R113); other bytes are reserved (R117). -/
def decodeKeyByte (b : Byte) : Option KeyCode :=
  if opClass b = 0 then some (opArg b) else none

/-- The key bytes of a WRSEQ, none of them reserved. -/
def decodeKeys : List Byte → Option (List KeyCode)
  | [] => some []
  | b :: bs =>
    match decodeKeyByte b, decodeKeys bs with
    | some k, some ks => some (k :: ks)
    | _, _ => none

/-- Decode the first operation of a byte stream: the operation and the rest of the stream. The length is checked
before the key bytes are looked at (R115; log 5). -/
def decode : List Byte → Except DecodeError (Instr × List Byte)
  | [] => .error .noOperation
  | op :: rest =>
    match decodeHead op with
    | .single i => .ok (i, rest)
    | .reserved => .error .reserved
    | .sequence n =>
      if rest.length < n then .error .incomplete
      else
        match decodeKeys (rest.take n) with
        | some ks => .ok (.wrseq ks, rest.drop n)
        | none => .error .reserved
    | .wait =>
      match rest with
      | t2 :: t1 :: t0 :: rest' => .ok (.wait (t2 ++ t1 ++ t0), rest')
      | _ => .error .incomplete

/-- `decodeStream` with at most `fuel` operations read. -/
def decodeStreamFuel : Nat → List Byte → List Instr × Option DecodeError
  | 0, _ => ([], none)
  | _ + 1, [] => ([], none)
  | fuel + 1, b :: bs =>
    match decode (b :: bs) with
    | .ok (i, rest) => (i :: (decodeStreamFuel fuel rest).1, (decodeStreamFuel fuel rest).2)
    | .error e => ([], some e)

/-- A whole stream: its operations, followed by at most one refusal, at which decoding stops (R119). Every operation
takes at least one byte, so the stream's length is fuel enough. -/
def decodeStream (bs : List Byte) : List Instr × Option DecodeError :=
  decodeStreamFuel bs.length bs

/-- The key byte `000kkkkk` (R113). -/
def encodeKeyByte (k : KeyCode) : Byte := 0b000#3 ++ k

/-- The word of an operation (R112 to R114, R136). -/
def encode : Instr → List Byte
  | .edge l => [0b0000000#7 ++ BitVec.ofBool l]
  | .sample d => [0b0010000#7 ++ BitVec.ofBool d]
  | .wrkey k => [0b010#3 ++ k]
  | .wrseq ks => (0b011#3 ++ BitVec.ofNat 5 ks.length) :: ks.map encodeKeyByte
  | .pollp => [0x80]
  | .pollm => [0xA0]
  | .status => [0xC0]
  | .ackovf => [0xC1]
  | .reset => [0xC2]
  | .config m r => [0b110100#6 ++ BitVec.ofBool m ++ BitVec.ofBool r]
  | .wait delta => [0xE0, delta.extractLsb' 16 8, delta.extractLsb' 8 8, delta.extractLsb' 0 8]

/-- The words of a list of operations, one after the other (R119). -/
def encodeStream (is : List Instr) : List Byte := is.flatMap encode

/-- The bytes of the operation whose bits are `w`, as the opcode table numbers them (byte `j` is bits `8j+7..8j`),
every bit at or above `nbits` zero: as many bytes as the first byte says (R115). -/
def tableBytes (nbits w : Nat) : List Byte :=
  let w := w % 2 ^ nbits
  (List.range (opLength (BitVec.ofNat 8 w))).map fun j => BitVec.ofNat 8 (w >>> (8 * j))

/-- The operation the decoder reads from a table row's word. -/
def decodeTableWord (nbits w : Nat) : Option Instr :=
  match decode (tableBytes nbits w) with
  | .ok (i, _) => some i
  | .error _ => none

end Sys2Proof
end

