-- ==== Sys2Proof/Config.lean ====
section
/-! DEFINITION. The implementation parameters of 00_scope.md R6 as plain data, their constraints, the reference
column, and the free values the spec leaves open. -/

namespace Sys2Proof

/-- The parameters the model takes as arguments (R6). They are fixed for the life of the model: no operation changes
them (R33). `MIN_BITS` and `REDUNDANT_DEFAULT` are fixed by R6 and stand below as constants. -/
structure Params where
  /-- bytes in every frame buffer -/
  N : Nat
  /-- frame queue capacity, in frames -/
  QCAP : Nat
  /-- delay from a clock edge to the data sample, µs -/
  sampleDelayUs : Nat
  /-- clock-high duration above which a gap is seen, µs -/
  gapUs : Nat
  /-- bit count that opens the startup gate -/
  gateBits : Nat
  /-- liveness threshold, ms -/
  connectMs : Nat
  /-- write drain delay, ms -/
  drainMs : Nat
  /-- inter-key floor of alarm-class keys, ms -/
  alarmMs : Nat
  /-- the configuration supports partitions 5 to 8 -/
  partitions5to8 : Bool
  /-- leading bytes the 0x0A tracker compares -/
  len0A : Nat
  /-- leading bytes the 0xE6/0x20 tracker compares -/
  lenE6_20 : Nat
  /-- leading bytes the 0xE6/0x03 tracker compares -/
  lenE6_03 : Nat
  /-- queue length at or above which module sampling is skipped -/
  moduleSkipLevel : Nat
  /-- a write pin was attached -/
  writeEnabled : Bool
  /-- panel bit number of the cycle that carries write-window position 1 -/
  wstart : Nat
  /-- command ids whose frames open a write window -/
  writeCmds : List Byte
  /-- the alarm-class keys -/
  alarmKeys : List Key
  /-- the 8-bit pattern of each plain key, by code 0..11 -/
  keyPattern8 : List (BitVec 8)
  /-- the 24-bit true pattern of each command-class key, by code less 12 -/
  keyPattern24 : List (BitVec 24)
  /-- keys held by one key sequence -/
  seqCap : Nat
  /-- reset value of the module-processing switch -/
  moduleDefault : Bool
deriving DecidableEq, Repr

/-- `MIN_BITS`: panel frames with fewer bits are discarded; R6 fixes it at 8. -/
def minBits : Nat := 8

/-- `REDUNDANT_DEFAULT`: reset value of the redundant-frame-suppression switch; R6 fixes it true. -/
def redundantDefault : Bool := true

/-- The constraints of R6's last column (and KeyPattern8(1) = 0xDD, R124; a total function on the 12 plain keys and
on the 4 command-class keys). -/
def Params.valid (p : Params) : Bool :=
  decide (3 ≤ p.N) && decide (1 ≤ p.QCAP) && decide (1 ≤ p.sampleDelayUs) && decide (1 ≤ p.gapUs) &&
  decide (1 ≤ p.gateBits) &&
  decide (1 ≤ p.len0A) && decide (p.len0A ≤ p.N) && decide (1 ≤ p.lenE6_20) && decide (p.lenE6_03 ≤ p.N) &&
  decide (p.lenE6_20 < p.lenE6_03) &&
  decide (1 ≤ p.moduleSkipLevel) && decide (p.moduleSkipLevel ≤ p.QCAP) &&
  decide (8 ≤ p.wstart) && decide (p.wstart + 23 + 7 ≤ 8 * p.N) &&
  decide (p.keyPattern8.length = 12) && decide (p.keyPattern8[1]? = some 0xDD) &&
  decide (p.keyPattern24.length = 4) && decide (1 ≤ p.seqCap)

/-- The pattern of a plain key other than '1'. The source gives none (R124, N10): a FREE VALUE, log 8. -/
opaque Config.keyPattern8Open : Nat → BitVec 8

/-- The true pattern of a command-class key. The source gives none (R125, N10): a FREE VALUE, log 8. -/
opaque Config.keyPattern24Open : Nat → BitVec 24

/-- Byte `i` of the `k`-th Entry drawn for `panelOut` after a dropped frame (R273): a FREE VALUE, log 9. -/
opaque Config.freeByte : Nat → Nat → Byte

/-- The bit count of the `k`-th Entry drawn for `panelOut` (R273), before it is bounded: a FREE VALUE, log 9. -/
opaque Config.freeBitCount : Nat → Nat

/-- The byte count of the `k`-th Entry drawn for `panelOut` (R273), before it is bounded: a FREE VALUE, log 9. -/
opaque Config.freeByteCount : Nat → Nat

/-- The reference column of R6 (D35): the spec's choice, no claim about real hardware. DESIGN CHOICE, log 7. Key
patterns the source does not give stay free (log 8). -/
def Params.reference : Params where
  N := 16
  QCAP := 4
  sampleDelayUs := 250
  gapUs := 1000
  gateBits := 24
  connectMs := 3000
  drainMs := 300
  alarmMs := 500
  partitions5to8 := true
  len0A := 16
  lenE6_20 := 8
  lenE6_03 := 16
  moduleSkipLevel := 3
  writeEnabled := true
  wstart := 10
  writeCmds := (List.range 256).map (BitVec.ofNat 8)
  alarmKeys := []
  keyPattern8 := (List.range 12).map fun k => if k = 1 then 0xDD else Config.keyPattern8Open k
  keyPattern24 := (List.range 4).map fun k => Config.keyPattern24Open (12 + k)
  seqCap := 16
  moduleDefault := false

end Sys2Proof
end

