-- ==== Sys2Proof/Machine/State.lean ====
section
/-! DEFINITION. The state record of 10_state.md, its component types, the two outcome reasons, and the state after
power-on. -/

namespace Sys2Proof.Machine

/-- A frame buffer under construction (R34). -/
structure FrameBuf where
  /-- the frame bytes, N of them: byte 0 the command id, byte 1 the stop-bit slot, bytes ≥ 2 payload (R82) -/
  bytes : List Byte
  /-- number of bits stored in this frame -/
  bits : Nat
  /-- index of the byte being filled: the number of completed byte slots -/
  idx : Nat
  /-- bits already shifted into `bytes[idx]` when `idx ≠ 1` -/
  sub : Nat
  /-- a bit arrived after `idx` reached N; no rule reads it (R183) -/
  overlong : Bool
deriving DecidableEq, Repr

/-- What the queue, the module slot and the output registers hold (R35). -/
structure Entry where
  bytes : List Byte
  bitCount : Nat
  byteCount : Nat
deriving DecidableEq, Repr

/-- The injector's states (R45, R221). -/
inductive WState where
  | idle
  | staged
  | active
  | wait2
  | armed2
  | drain
deriving DecidableEq, Repr

/-- The kinds of pass (R45). -/
inductive WPass where
  | plain
  | pass1
  | pass2
deriving DecidableEq, Repr

/-- The reasons a step is not admitted (R306). -/
inductive RefuseReason where
  /-- a reserved first byte or key byte (R117) -/
  | reserved
  /-- the stream ends inside a WRSEQ or WAIT (R115) -/
  | incomplete
  /-- an operation other than SAMPLE or RESET at the sample instant (R159) -/
  | deadline
  /-- a WAIT past an armed deadline (R166) -/
  | deadlineCrossed
  /-- a SAMPLE with no deadline armed (R168) -/
  | noDeadline
  /-- a SAMPLE before its deadline (R168) -/
  | early
  /-- a CONFIG after the first POLLP or POLLM since RESET (R290) -/
  | configAfterPoll
deriving DecidableEq, Repr

/-- The value an operation returned, in the encodings of R132 to R134. -/
inductive OpResult where
  /-- POLLP: 0 none, 1 frame, 2 event (R132) -/
  | pollp (r : BitVec 2)
  /-- POLLM: 1 module frame available, 0 none (R133) -/
  | pollm (r : BitVec 1)
  /-- STATUS: the status word (R134) -/
  | status (w : BitVec 8)
deriving DecidableEq, Repr

/-- The reasons the machine stops with a fault: NONE. The block has no trap, no fatal condition and no stuck state
(R300, R317; 93_implementation_defined.md: "fault and stuck: no entry needs them"). -/
inductive Fault : Type
deriving DecidableEq, Repr

/-- The reasons an operation has no meaning in the model. Every operation has one, so no arm of `exec` uses it. -/
inductive Refusal where
  /-- raised by an arm of `exec` that has no meaning yet; safe. No arm raises it. -/
  | notModelled (mnemonic : String)
deriving DecidableEq, Repr

/-- The state `S` of the block (R33, tables R36 to R45, and R46), and four fields of the model's own. -/
structure State where
  /-- MODEL's own: the parameters, the model's arguments (R6, R33); no operation writes them (log 6) -/
  params : Params
  /-- MODEL's own: the operation stream not yet decoded (R115, R119; log 2) -/
  pending : List Byte
  /-- MODEL's own: what the last value-returning operation returned (R132 to R135; log 12) -/
  result : Option OpResult
  /-- MODEL's own: how many free Entries have been drawn for `panelOut` (R273; log 9) -/
  draws : Nat
  /-- module processing on (R36) -/
  cfgModule : Bool
  /-- redundant-frame suppression on (R36) -/
  cfgRedundant : Bool
  /-- a POLLP or POLLM has run since RESET (R36) -/
  polled : Bool
  /-- the monotonic counter, µs (R37, R12) -/
  now : Nat
  /-- the clock level of the last EDGE (R37, R51) -/
  clk : Bool
  /-- time of the last rising edge, µs (R37) -/
  lastRise : Nat
  /-- length of the last clock-high interval, µs; 0 once its gap is consumed (R37, R202) -/
  clockHighTime : Nat
  /-- the one-shot sample timer: the deadline it is armed for, if it is (R37, R47) -/
  sampleDue : Option Nat
  /-- the write output: the block pulls the data line low (R37, R240) -/
  writeLow : Bool
  /-- the panel scratch (R38) -/
  P : FrameBuf
  /-- the module scratch (R38) -/
  M : FrameBuf
  /-- a module bit was sampled low this cycle (R38, R191) -/
  modActivity : Bool
  /-- a module sample was skipped under backpressure this cycle (R38, R190) -/
  modSkipped : Bool
  /-- capture-stage tracker of id 0x05 (R39) -/
  T05 : List Byte
  /-- capture-stage tracker of id 0x1B (R39) -/
  T1B : List Byte
  /-- the frame queue, oldest first (R40) -/
  Q : List Entry
  /-- sticky: a surviving frame met a full queue (R40, R199) -/
  overflow : Bool
  /-- the latest module frame (R41) -/
  slot : Entry
  /-- the module frame is unread (R41) -/
  captured : Bool
  /-- the startup gate is open (R42, R266) -/
  gateOpen : Bool
  /-- consumption-stage tracker of 0x0A (R42) -/
  T0A : List Byte
  /-- consumption-stage tracker of 0xE6/0x20 (R42) -/
  TE6_20 : List Byte
  /-- consumption-stage tracker of 0xE6/0x03 (R42) -/
  TE6_03 : List Byte
  /-- the general consumption-stage tracker (R42) -/
  TGen : List Byte
  /-- time of the last completion, ms (R43) -/
  lastGap : Nat
  /-- the bus was live at the last POLLP (R43) -/
  connected : Bool
  /-- the last POLLP saw a transition of `connected` (R43) -/
  changed : Bool
  /-- the current panel frame (R44) -/
  panelOut : Entry
  /-- the current module frame (R44) -/
  moduleOut : Entry
  /-- the injector's state (R45) -/
  wstate : WState
  /-- the kind of the pass in progress; meaningful only when `wstate` is `active` (R45) -/
  wpass : WPass
  /-- the key held; meaningful only when `wstate` is not `idle` (R45) -/
  wkey : Key
  /-- end of the last pass, ms; meaningful only when `wstate` is `drain` (R45) -/
  doneAt : Nat
  /-- end of the last alarm-class key, ms, if there was one (R45) -/
  lastAlarmDone : Option Nat
  /-- the rest of a key sequence (R45) -/
  seq : List Key
  /-- the refusal reasons recorded; never cleared (R46) -/
  refusals : List RefuseReason
deriving DecidableEq, Repr

/-- `zero_N`: the buffer of `n` zero bytes (R9). -/
def zeroBytes (n : Nat) : List Byte := List.replicate n 0

/-- `emptyBuf` (R34). -/
def emptyBuf (n : Nat) : FrameBuf where
  bytes := zeroBytes n
  bits := 0
  idx := 0
  sub := 0
  overlong := false

/-- `emptyEntry` (R35). -/
def emptyEntry (n : Nat) : Entry where
  bytes := zeroBytes n
  bitCount := 0
  byteCount := 0

/-- `entry(B)`: the entry made from a frame buffer (R35). -/
def entryOf (B : FrameBuf) : Entry where
  bytes := B.bytes
  bitCount := B.bits
  byteCount := B.idx

/-- Power-on with given parameters: the reset value of every field, at `now = 0`, no refusal recorded (R50, R331). The
value of `clk` is the model's (DESIGN CHOICE, log 11), and so are those of `pending`, `result` and `draws` (logs 2,
10, 12). -/
def State.powerOn (p : Params) : State where
  params := p
  pending := []
  result := none
  draws := 0
  cfgModule := p.moduleDefault
  cfgRedundant := redundantDefault
  polled := false
  now := 0
  clk := false
  lastRise := 0
  clockHighTime := 0
  sampleDue := none
  writeLow := false
  P := emptyBuf p.N
  M := emptyBuf p.N
  modActivity := false
  modSkipped := false
  T05 := zeroBytes p.N
  T1B := zeroBytes p.N
  Q := []
  overflow := false
  slot := emptyEntry p.N
  captured := false
  gateOpen := false
  T0A := zeroBytes p.N
  TE6_20 := zeroBytes p.N
  TE6_03 := zeroBytes p.N
  TGen := zeroBytes p.N
  lastGap := 0
  connected := false
  changed := false
  panelOut := emptyEntry p.N
  moduleOut := emptyEntry p.N
  wstate := .idle
  wpass := .plain
  wkey := 0
  doneAt := 0
  lastAlarmDone := none
  seq := []
  refusals := []

/-- The machine right after power-on, with the reference parameters (R331, R6; log 7). -/
def State.reset : State := State.powerOn Params.reference

end Sys2Proof.Machine
end

