-- ==== Sys2Proof/Machine/Ops.lean ====
section
/-! DEFINITION. The operations every family shares: time, refusals and admission, results, the operation stream, bytes
of a buffer, the FIFO and redundancy primitives, the drawn Entry. The block takes no exception and returns from none
(R300, R307, R308), so there is no such operation here. -/

namespace Sys2Proof.Machine

/-- `ms(t)`: the millisecond reading of a microsecond time (R9, R12). -/
def ms (t : Nat) : Nat := t / 1000

/-- `refuse(reason)`: the reason is recorded and nothing else changes (R9, R306; log 1). -/
def refuse (r : RefuseReason) (s : State) : State := { s with refusals := s.refusals ++ [r] }

/-- The sample timer fires now: `S.sampleDue = S.now` (R159). -/
def atDeadline (s : State) : Bool := s.sampleDue == some s.now

/-- The admission common to every operation but SAMPLE and RESET (R159): at the sample instant the operation is
refused, else it is performed. -/
def whenAdmitted (op : State → State) (s : State) : State :=
  if atDeadline s then refuse .deadline s else op s

/-- `return r` (R9): the value the operation returns. -/
def returns (r : OpResult) (s : State) : State := { s with result := some r }

/-- Arm the one-shot timer, in place of any deadline still pending (R47, R164). -/
def armTimer (s : State) : State := { s with sampleDue := some (s.now + s.params.sampleDelayUs) }

/-- `B[i]`, byte `i` of a buffer (R9). -/
def byteAt (bs : List Byte) (i : Nat) : Byte := bs.getD i 0

/-- `(v << 1) | b` on a byte, modulo 256 (R9): earlier bits move up one place (R83). -/
def shiftIn (v : Byte) (b : Bool) : Byte := (v <<< 1) ||| (BitVec.ofBool b).setWidth 8

/-- `Enqueue(e)`: append at the tail; callers check for room (R88, R199). -/
def enqueue (e : Entry) (s : State) : State := { s with Q := s.Q ++ [e] }

/-- The test of `Redundant(T, B, L)`: the first `L` bytes agree (R93). -/
def isDuplicate (T B : List Byte) (L : Nat) : Bool := T.take L == B.take L

/-- What `Redundant(T, B, L)` leaves in the tracker: on a mismatch its first `L` bytes become those of `B`, and the
others stay (R93). -/
def remember (T B : List Byte) (L : Nat) : List Byte :=
  if isDuplicate T B L then T else B.take L ++ T.drop L

/-- The most bits a frame of `n` bytes holds (R84). -/
def maxBits (n : Nat) : Nat := 8 * n - 7

/-- The `k`-th Entry drawn for `panelOut`: any Entry of N bytes with counts in their bounds (R273, R35). Its content is
FREE (log 9). -/
def drawnEntry (p : Params) (k : Nat) : Entry where
  bytes := (List.range p.N).map (Config.freeByte k)
  bitCount := Config.freeBitCount k % (maxBits p.N + 1)
  byteCount := Config.freeByteCount k % (p.N + 1)

/-- What the operation stream offers next. -/
inductive Fetched where
  /-- the stream is empty: the block waits (R81, R344) -/
  | nothing
  /-- the stream does not decode (R115, R117) -/
  | refused (r : RefuseReason)
  /-- an operation, and the stream after it -/
  | operation (i : Instr) (rest : List Byte)
deriving DecidableEq, Repr

/-- Decode the head of the operation stream (R115, R119). -/
def fetch (s : State) : Fetched :=
  match decode s.pending with
  | .ok (i, rest) => .operation i rest
  | .error .noOperation => .nothing
  | .error .reserved => .refused .reserved
  | .error .incomplete => .refused .incomplete

/-- The state with another operation stream. -/
def withPending (bs : List Byte) (s : State) : State := { s with pending := bs }

/-- A stream that does not decode: the reason is recorded, and decoding stops there, so nothing after it is read
(R117, R119, R306; log 4). -/
def rejectStream (r : RefuseReason) (s : State) : State := withPending [] (refuse r s)

end Sys2Proof.Machine
end

