-- ==== Sys2Proof/Machine/Operands.lean ====
section
/-! DEFINITION. Keys as operands: validity, class, window width, pattern and pattern bit (30_encoding.md section 4). -/

namespace Sys2Proof.Machine

/-- The key of a code, where the code is valid: 0..15 (R118, R121). -/
def validKey (k : KeyCode) : Option Key :=
  if h : k.toNat < 16 then some ⟨k.toNat, h⟩ else none

/-- `isCmd(k)`: the command-class keys are the codes 12..15 (R122). -/
def isCmd (k : Key) : Bool := decide (12 ≤ k.val)

/-- `W(k)`: the window width of a key (R123). -/
def keyWidth (k : Key) : Nat := if isCmd k then 24 else 8

/-- The window width of a pass (R222). -/
def passWidth : WPass → Nat
  | .plain => 8
  | .pass1 => 24
  | .pass2 => 24

/-- `KeyPattern8(k)` (R124). The spec defines it on the plain keys; at a command-class key, which a plain pass holds in no
reachable state, the model reads 0: DESIGN CHOICE (log 15). -/
def keyPattern8 (p : Params) (k : Key) : BitVec 8 := p.keyPattern8.getD k.val 0

/-- `PH24`, the all-high placeholder of pass 1 (R125). -/
def placeholder24 : BitVec 24 := 0xFFFFFF

/-- `KeyPattern24(k)` (R125). The spec defines it on the command-class keys; at a plain key, which a second pass holds in
no reachable state, `k.val - 12` is 0 and the model reads ENTER's pattern: DESIGN CHOICE (log 15). -/
def keyPattern24 (p : Params) (k : Key) : BitVec 24 := p.keyPattern24.getD (k.val - 12) 0

/-- Bit `j` of the pattern of a pass (R222). -/
def patternBit (p : Params) (pass : WPass) (k : Key) (j : Nat) : Bool :=
  match pass with
  | .plain => (keyPattern8 p k).getLsbD j
  | .pass1 => placeholder24.getLsbD j
  | .pass2 => (keyPattern24 p k).getLsbD j

/-- At window position `i` the line is pulled low iff bit `W − i` of the pattern is 0 (R126). -/
def pullsLow (p : Params) (pass : WPass) (k : Key) (i : Nat) : Bool :=
  !patternBit p pass k (passWidth pass - i)

/-- The kind of pass that starts: the second of the two passes, or the first pass of the key's class (R241). -/
def startPass (w : WState) (k : Key) : WPass :=
  if w = .armed2 then .pass2 else if isCmd k then .pass1 else .plain

/-- The keys of a WRSEQ: invalid codes dropped, then cut to SEQ_CAP (R233). -/
def sequenceKeys (p : Params) (ks : List KeyCode) : List Key := (ks.filterMap validKey).take p.seqCap

end Sys2Proof.Machine
end

