-- ==== Sys2Proof/Machine/Flags.lean ====
section
/-! DEFINITION. The derived flags and the result words: writeReady, the alarm floor, liveness, the gate condition, the
codes POLLP returns, the status word. -/

namespace Sys2Proof.Machine

/-- `writeReady(S)` (R223). -/
def writeReady (s : State) : Bool :=
  s.params.writeEnabled &&
    (s.wstate == .idle || (s.wstate == .drain && decide (s.params.drainMs ≤ ms s.now - s.doneAt)))

/-- `alarmOK(S, k)` (R225). -/
def alarmOK (s : State) (k : Key) : Bool :=
  !s.params.alarmKeys.contains k ||
    match s.lastAlarmDone with
    | none => true
    | some t => decide (s.params.alarmMs ≤ ms s.now - t)

/-- The liveness test of POLLP: `ms(S.now) − S.lastGap ≤ CONNECT_MS`, inclusive (R262). -/
def busAlive (s : State) : Bool := decide (ms s.now - s.lastGap ≤ s.params.connectMs)

/-- Whether a frame opens the startup gate (R266). -/
def opensGate (p : Params) (e : Entry) : Bool :=
  decide (p.gateBits ≤ e.bitCount) || byteAt e.bytes 0 == 0x05

/-- POLLP's result NONE (R132). -/
def resNone : BitVec 2 := 0

/-- POLLP's result FRAME (R132). -/
def resFrame : BitVec 2 := 1

/-- POLLP's result EVENT (R132). -/
def resEvent : BitVec 2 := 2

/-- `EVENT if S.changed else NONE`: the result of a poll without a frame (R264, R273). -/
def noFrameResult (s : State) : BitVec 2 := if s.changed then resEvent else resNone

/-- The status word (R134, R282): overflow, connected, changed, writeReady, writeLow from bit 0 up, bits 7..5 zero. -/
def statusWord (s : State) : BitVec 8 :=
  0b000#3 ++ BitVec.ofBool s.writeLow ++ BitVec.ofBool (writeReady s) ++ BitVec.ofBool s.changed ++
    BitVec.ofBool s.connected ++ BitVec.ofBool s.overflow

end Sys2Proof.Machine
end

