-- ==== Sys2Proof/Machine/WriteInjector.lean ====
section
/-! DEFINITION. The write-injection state machine (42_write_injector.md): WRKEY, WRSEQ, and the parts that falling
edges, completions and polls run. -/

namespace Sys2Proof.Machine

/-- The key in hand is done: the drain starts, and an alarm-class key stamps its floor (R243, R245). -/
def finishKey (s : State) : State :=
  { s with
    wstate := .drain
    doneAt := ms s.now
    lastAlarmDone := if s.params.alarmKeys.contains s.wkey then some (ms s.now) else s.lastAlarmDone }

/-- `PassEnd()` (R243). -/
def passEnd (s : State) : State :=
  if s.wpass = .pass1 then { s with wstate := .wait2 } else finishKey s

/-- Whether a pass starts at this falling edge (R242). -/
def windowStarts (s : State) : Bool :=
  (s.wstate == .staged || s.wstate == .armed2) && decide (s.P.bits = s.params.wstart) &&
    s.params.writeCmds.contains (byteAt s.P.bytes 0)

/-- The start of a pass, where R242's condition holds (R241). -/
def startWindow (s : State) : State :=
  if windowStarts s then { s with wpass := startPass s.wstate s.wkey, wstate := .active } else s

/-- The window position of a falling edge: `i = P.bits − WSTART + 1` (R222). -/
def windowPosition (s : State) : Nat := s.P.bits - s.params.wstart + 1

/-- Drive the line at position `i` of the pass in progress, if the window has that position (R241, R126). -/
def driveBit (i : Nat) (s : State) : State :=
  if i ≤ passWidth s.wpass then { s with writeLow := pullsLow s.params s.wpass s.wkey i } else s

/-- One position of the pass in progress: drive the line, and end the pass at its last position (R241). -/
def advanceWindow (s : State) : State :=
  if s.wstate = .active then
    if passWidth s.wpass ≤ windowPosition s then passEnd (driveBit (windowPosition s) s)
    else driveBit (windowPosition s) s
  else s

/-- `InjectorFalling()`, run by every falling edge (R241). -/
def injectorFalling (s : State) : State :=
  if s.params.writeEnabled then advanceWindow (startWindow s) else s

/-- `InjectorGap()`, run by every completion (R245). -/
def injectorGap (s : State) : State :=
  if s.wstate = .wait2 then { s with wstate := .armed2 }
  else if s.wstate = .active then
    if s.wpass = .pass1 then { s with wstate := .armed2 } else finishKey s
  else s

/-- `SeqAdvance()`: stage the next key of a pending sequence, when the injector is ready for it (R235). -/
def seqAdvance (s : State) : State :=
  match s.seq with
  | [] => s
  | k :: ks => if writeReady s && alarmOK s k then { s with wkey := k, seq := ks, wstate := .staged } else s

/-- WRKEY's effect: a valid key is staged when the injector is ready for it, and supersedes an unfinished sequence;
every other request is silently ignored (R230). -/
def writeKey (k : KeyCode) (s : State) : State :=
  if s.params.writeEnabled then
    match validKey k with
    | none => s
    | some key =>
      if writeReady s && alarmOK s key then { s with seq := [], wkey := key, wstate := .staged } else s
  else s

/-- WRSEQ's effect: the valid keys, cut to SEQ_CAP, supersede an unfinished sequence, and the first of them is staged
now (R233). -/
def writeSequence (ks : List KeyCode) (s : State) : State :=
  if s.params.writeEnabled then
    if writeReady s then seqAdvance { s with seq := sequenceKeys s.params ks } else s
  else s

/-- WRKEY k (R230). -/
def execWrkey (k : KeyCode) (s : State) : Host.Outcome State Fault Refusal := .next (whenAdmitted (writeKey k) s)

/-- WRSEQ k1..kn (R233). -/
def execWrseq (ks : List KeyCode) (s : State) : Host.Outcome State Fault Refusal :=
  .next (whenAdmitted (writeSequence ks) s)

end Sys2Proof.Machine
end

