-- ==== Sys2Proof/Machine/BitCapture.lean ====
section
/-! DEFINITION. BitCapture (41_bit_capture.md): SAMPLE, the framer, the half-cycle demux, the gap detector and the
completion sequence. -/

namespace Sys2Proof.Machine

/-- `CaptureBit(B, b)` into a buffer of `n` bytes: MSB first, the ninth bit alone in byte 1, bits past capacity dropped
(R181, R182, R183). -/
def captureBit (n : Nat) (b : Bool) (B : FrameBuf) : FrameBuf :=
  if n ≤ B.idx then { B with overlong := true }
  else
    let B' := { B with bytes := B.bytes.set B.idx (shiftIn (byteAt B.bytes B.idx) b), bits := B.bits + 1 }
    if B.idx = 1 then { B' with idx := 2, sub := 0 }
    else if B.sub = 7 then { B' with idx := B.idx + 1, sub := 0 }
    else { B' with sub := B.sub + 1 }

/-- The level the block reads: the line is open-drain, so it is low if any party pulls it low, this block among them
(R189). -/
def sampledLevel (d : Bool) (s : State) : Bool := d && !s.writeLow

/-- The panel half (R184). -/
def capturePanel (line : Bool) (s : State) : State := { s with P := captureBit s.params.N line s.P }

/-- The module half: captured only with module processing on and the queue below the skip level (R185, R190); a bit
sampled low marks activity (R191). -/
def captureModule (line : Bool) (s : State) : State :=
  if s.cfgModule then
    if s.Q.length < s.params.moduleSkipLevel then
      { s with M := captureBit s.params.N line s.M, modActivity := s.modActivity || !line }
    else { s with modSkipped := true }
  else s

/-- Steps (2) and (3) of a completion: whether the panel frame is discarded, being too short or redundant (R198). -/
def captureDiscards (s : State) : Bool :=
  if s.P.bits < minBits then true
  else if byteAt s.P.bytes 0 = 0x05 then isDuplicate s.T05 s.P.bytes s.params.N
  else if byteAt s.P.bytes 0 = 0x1B then isDuplicate s.T1B s.P.bytes s.params.N
  else false

/-- The capture-stage trackers after a completion (R198): a frame too short reaches none. -/
def captureTrackers (s : State) : State :=
  if s.P.bits < minBits then s
  else if byteAt s.P.bytes 0 = 0x05 then { s with T05 := remember s.T05 s.P.bytes s.params.N }
  else if byteAt s.P.bytes 0 = 0x1B then { s with T1B := remember s.T1B s.P.bytes s.params.N }
  else s

/-- Step (4): a frame not discarded is enqueued, or dropped with the sticky flag set when the queue is full (R199). -/
def offerFrame (discard : Bool) (s : State) : State :=
  if discard then s
  else if s.Q.length = s.params.QCAP then { s with overflow := true }
  else enqueue (entryOf s.P) s

/-- Step (5): the module frame of a cycle with activity and no skipped sample (R200). -/
def latchModule (s : State) : State :=
  if s.modActivity && !s.modSkipped then { s with slot := entryOf s.M, captured := true } else s

/-- Step (6): the scratch is zeroed and the gap consumed (R201, R202). -/
def clearScratch (s : State) : State :=
  { s with
    P := emptyBuf s.params.N
    M := emptyBuf s.params.N
    modActivity := false
    modSkipped := false
    clockHighTime := 0 }

/-- `Complete()`: the completion sequence (R196). -/
def complete (s : State) : State :=
  clearScratch
    (injectorGap (latchModule (offerFrame (captureDiscards s) (captureTrackers { s with lastGap := ms s.now }))))

/-- The gap test: strictly more than GAP_US of clock-high (R192). -/
def gapSeen (s : State) : Bool := decide (s.params.gapUs < s.clockHighTime)

/-- The first part of a SAMPLE: the timer is spent and the sample goes to its half (R180). -/
def handleSample (d : Bool) (s : State) : State :=
  if s.clk then capturePanel (sampledLevel d s) { s with sampleDue := none }
  else captureModule (sampledLevel d s) { s with sampleDue := none }

/-- An admitted SAMPLE: the sample is handled, and then a gap completes the frame (R180, R192). -/
def takeSample (d : Bool) (s : State) : State :=
  if gapSeen (handleSample d s) then complete (handleSample d s) else handleSample d s

/-- SAMPLE is admitted exactly at its deadline (R168). -/
def admitSample (op : State → State) (s : State) : State :=
  match s.sampleDue with
  | none => refuse .noDeadline s
  | some t => if t = s.now then op s else refuse .early s

/-- SAMPLE d (R180). -/
def execSample (d : Bool) (s : State) : Host.Outcome State Fault Refusal := .next (admitSample (takeSample d) s)

end Sys2Proof.Machine
end

