-- ==== Sys2Proof/Machine/Consumer.lean ====
section
/-! DEFINITION. The application's entry points (43_consumer.md): POLLP, POLLM, STATUS, ACKOVF, CONFIG. -/

namespace Sys2Proof.Machine

/-- The liveness evaluation of a poll (R262, R263). -/
def updateLiveness (s : State) : State :=
  { s with changed := busAlive s != s.connected, connected := busAlive s }

/-- `Drop()`: a dequeued frame is not surfaced; `panelOut` is any Entry (R273; log 9). -/
def dropFrame (s : State) : State :=
  returns (.pollp (noFrameResult s))
    { s with panelOut := drawnEntry s.params s.draws, draws := s.draws + 1 }

/-- A frame that survives is exposed (R272). -/
def surfaceFrame (e : Entry) (s : State) : State :=
  returns (.pollp resFrame) { s with panelOut := e }

/-- The installer-loop trackers (R268). -/
inductive LoopTracker where
  | t0A
  | tE6_20
  | tE6_03
deriving DecidableEq, Repr

/-- Which loop a frame belongs to, if any (R268, R130, R131). -/
def loopOf (p : Params) (e : Entry) : Option LoopTracker :=
  if byteAt e.bytes 0 = 0x0A then some .t0A
  else if byteAt e.bytes 0 = 0xE6 then
    if byteAt e.bytes 2 = 0x20 then some .tE6_20
    else if byteAt e.bytes 2 = 0x03 ∧ p.partitions5to8 = true then some .tE6_03
    else none
  else none

/-- The leading bytes a loop's tracker compares (R268, R6). -/
def loopLength (p : Params) : LoopTracker → Nat
  | .t0A => p.len0A
  | .tE6_20 => p.lenE6_20
  | .tE6_03 => p.lenE6_03

/-- The content of a loop's tracker. -/
def loopTracker (s : State) : LoopTracker → List Byte
  | .t0A => s.T0A
  | .tE6_20 => s.TE6_20
  | .tE6_03 => s.TE6_03

/-- The state with a loop's tracker replaced. -/
def setLoopTracker (s : State) (t : LoopTracker) (bs : List Byte) : State :=
  match t with
  | .t0A => { s with T0A := bs }
  | .tE6_20 => { s with TE6_20 := bs }
  | .tE6_03 => { s with TE6_03 := bs }

/-- `ConsumeSuppressed(e)`: whether the frame repeats its loop's tracker (R268). -/
def loopSuppresses (e : Entry) (s : State) : Bool :=
  match loopOf s.params e with
  | none => false
  | some t => isDuplicate (loopTracker s t) e.bytes (loopLength s.params t)

/-- What `ConsumeSuppressed(e)` leaves in the trackers (R268, R93). -/
def loopRemembers (e : Entry) (s : State) : State :=
  match loopOf s.params e with
  | none => s
  | some t => setLoopTracker s t (remember (loopTracker s t) e.bytes (loopLength s.params t))

/-- The general tracker's stage (R270), on a frame that passed the earlier ones. -/
def generalFilter (e : Entry) (s : State) : State :=
  if s.cfgRedundant then
    if isDuplicate s.TGen e.bytes s.params.N then dropFrame s
    else surfaceFrame e { s with TGen := remember s.TGen e.bytes s.params.N }
  else surfaceFrame e s

/-- The consumption filters after the gate, in their order (R268, R270, R271). -/
def consumeFilter (e : Entry) (s : State) : State :=
  if loopSuppresses e s then dropFrame s else generalFilter e (loopRemembers e s)

/-- What a poll does with the frame it dequeued: the startup gate, then the filters (R266, R271). -/
def consumeFrame (e : Entry) (s : State) : State :=
  if s.gateOpen || opensGate s.params e then consumeFilter e { s with gateOpen := true } else dropFrame s

/-- A poll once the connection is evaluated: a disconnect returns at once, an empty queue gives no frame, else one frame
is dequeued (R263, R264, R265). -/
def pollQueue (s : State) : State :=
  if s.changed && !s.connected then returns (.pollp resEvent) s
  else
    match s.Q with
    | [] => returns (.pollp (noFrameResult s)) s
    | e :: rest => consumeFrame e { s with Q := rest }

/-- POLLP's effect (R260). -/
def pollPanel (s : State) : State := pollQueue (updateLiveness (seqAdvance { s with polled := true }))

/-- POLLM's effect (R280). -/
def pollModule (s : State) : State :=
  if s.captured then
    returns (.pollm 1) { s with polled := true, moduleOut := s.slot, captured := false }
  else returns (.pollm 0) { s with polled := true }

/-- STATUS's effect: the word is returned, nothing else changes (R282). -/
def readStatus (s : State) : State := returns (.status (statusWord s)) s

/-- ACKOVF's effect (R284). -/
def acknowledge (s : State) : State := { s with overflow := false }

/-- CONFIG's own admission and effect (R290). -/
def configure (m r : Bool) (s : State) : State :=
  if s.polled then refuse .configAfterPoll s else { s with cfgModule := m, cfgRedundant := r }

/-- POLLP (R260). -/
def execPollp (s : State) : Host.Outcome State Fault Refusal := .next (whenAdmitted pollPanel s)

/-- POLLM (R280). -/
def execPollm (s : State) : Host.Outcome State Fault Refusal := .next (whenAdmitted pollModule s)

/-- STATUS (R282). -/
def execStatus (s : State) : Host.Outcome State Fault Refusal := .next (whenAdmitted readStatus s)

/-- ACKOVF (R284). -/
def execAckovf (s : State) : Host.Outcome State Fault Refusal := .next (whenAdmitted acknowledge s)

/-- CONFIG m r (R290). -/
def execConfig (m r : Bool) (s : State) : Host.Outcome State Fault Refusal := .next (whenAdmitted (configure m r) s)

end Sys2Proof.Machine
end

