-- ==== Sys2Proof/Machine/LineSampler.lean ====
section
/-! DEFINITION. LineSampler (40_line_sampler.md): EDGE and WAIT. -/

namespace Sys2Proof.Machine

/-- A rising edge: the edge time is recorded, the write line restored, the timer armed (R160, R162, R164). -/
def risingEdge (s : State) : State :=
  armTimer { s with clk := true, lastRise := s.now, writeLow := false }

/-- A falling edge: the clock-high time is measured, the injector advances, the timer is armed (R160, R163, R164). -/
def fallingEdge (s : State) : State :=
  armTimer (injectorFalling { s with clk := false, clockHighTime := s.now - s.lastRise })

/-- The direction of an edge is the level the handler reads (R161). -/
def clockEdge (l : Bool) (s : State) : State := if l then risingEdge s else fallingEdge s

/-- WAIT's own admission and effect: time passes, but never over an armed deadline (R166). -/
def passTime (delta : Nat) (s : State) : State :=
  match s.sampleDue with
  | some t => if t < s.now + delta then refuse .deadlineCrossed s else { s with now := s.now + delta }
  | none => { s with now := s.now + delta }

/-- EDGE l (R160). -/
def execEdge (l : Bool) (s : State) : Host.Outcome State Fault Refusal := .next (whenAdmitted (clockEdge l) s)

/-- WAIT Δ (R166). -/
def execWait (delta : BitVec 24) (s : State) : Host.Outcome State Fault Refusal :=
  .next (whenAdmitted (passTime delta.toNat) s)

end Sys2Proof.Machine
end

