-- ==== Sys2Proof/Machine/Restart.lean ====
section
/-! DEFINITION. RESET (70_reset_and_hazards.md section 1). -/

namespace Sys2Proof.Machine

/-- Every field of the block takes its reset value; time does not restart and the refusals recorded are kept (R330,
R50). The model's own fields are not the block's and are kept (log 18). -/
def restart (s : State) : State :=
  { State.powerOn s.params with
    now := s.now
    refusals := s.refusals
    pending := s.pending
    result := s.result
    draws := s.draws }

/-- RESET, always admitted (R330). -/
def execReset (s : State) : Host.Outcome State Fault Refusal := .next (restart s)

end Sys2Proof.Machine
end

