-- ==== Sys2Proof/Machine/Dispatch.lean ====
section
/-! DEFINITION. The meaning of every operation, one arm each. -/

namespace Sys2Proof.Machine

def exec (i : Instr) (s : State) : Host.Outcome State Fault Refusal :=
  match i with
  | .edge l => Sys2Proof.Machine.execEdge l s
  | .sample d => Sys2Proof.Machine.execSample d s
  | .wrkey k => Sys2Proof.Machine.execWrkey k s
  | .wrseq ks => Sys2Proof.Machine.execWrseq ks s
  | .pollp => Sys2Proof.Machine.execPollp s
  | .pollm => Sys2Proof.Machine.execPollm s
  | .status => Sys2Proof.Machine.execStatus s
  | .ackovf => Sys2Proof.Machine.execAckovf s
  | .reset => Sys2Proof.Machine.execReset s
  | .config m r => Sys2Proof.Machine.execConfig m r s
  | .wait delta => Sys2Proof.Machine.execWait delta s

end Sys2Proof.Machine
end

