-- ==== Sys2Proof/Machine/Step.lean ====
section
/-! DEFINITION. One step of the machine: the next operation of the stream is decoded and performed. -/

namespace Sys2Proof.Machine

/-- One operation of the stream (R94, R95): decoded (R115, R119) and performed whole. An empty stream leaves the block
waiting (R81, R344; log 3); a stream that does not decode is refused (R306; log 4). -/
def step (s : State) : Host.Outcome State Fault Refusal :=
  match fetch s with
  | .nothing => .next s
  | .refused r => .next (rejectStream r s)
  | .operation i rest => exec i (withPending rest s)

/-- The state in which the operation of the table word `w` is the next of the stream (log 2). -/
def State.withFetchWord (s : State) (nbits w : Nat) : State :=
  { s with pending := tableBytes nbits w ++ s.pending }

end Sys2Proof.Machine
end

