-- ==== Sys2Proof/Machine/Pseudo.lean ====
section
/-! DEFINITION. The pseudo-operations of R137 and the FRAME notation of R138: each is a list of operations. -/

namespace Sys2Proof.Machine

/-- The longest WAIT, 16 777 215 µs (R114). -/
def maxWait : Nat := 2 ^ 24 - 1

/-- `BIT p, m`: one clock cycle of 1000 µs, clock high for 500 µs (R137). -/
def pseudoBit (p m : Bool) : List Instr :=
  [.edge true, .wait 250, .sample p, .wait 250, .edge false, .wait 250, .sample m, .wait 250]

/-- `GAP p, m`: a final cycle of 2000 µs, clock high for 1500 µs (R137). -/
def pseudoGap (p m : Bool) : List Instr :=
  [.edge true, .wait 250, .sample p, .wait 1250, .edge false, .wait 250, .sample m, .wait 250]

/-- `SYNC`: ends whatever frame was being built (R137). -/
def pseudoSync : List Instr := pseudoGap true true

/-- `FRAME b1 … bK`: one panel frame of K bits with the module line idle, its last bit in the gap (R137, R138). -/
def pseudoFrame : List Bool → List Instr
  | [] => []
  | [b] => pseudoGap b true
  | b :: c :: bs => pseudoBit b true ++ pseudoFrame (c :: bs)

/-- A wait of `n` µs as WAITs of at most 16 777 215 µs (R114, R137). R137 bounds each WAIT and leaves the split open:
DESIGN CHOICE (log 19), full WAITs first and the remainder last, and no WAIT 0 but for `n = 0`. -/
def waitMicros (n : Nat) : List Instr :=
  List.replicate (n / maxWait) (.wait (BitVec.ofNat 24 maxWait)) ++
    if n % maxWait = 0 ∧ n ≠ 0 then [] else [.wait (BitVec.ofNat 24 (n % maxWait))]

/-- `WAITMS t` (R137). -/
def pseudoWaitMs (t : Nat) : List Instr := waitMicros (1000 * t)

end Sys2Proof.Machine
end

