-- ==== Sys2Proof/Safety.lean ====
section
/-! DEFINITION. The terms claims are stated in: the spec's conditions in its own words, lists of operations, what a
completion does with its frame, and the invariant of every reachable state. -/

namespace Sys2Proof.Machine

/-! ## The spec's conditions -/

/-- `S.sampleDue = S.now`: the sample timer fires now (R159). -/
abbrev TimerFires (s : State) : Prop := s.sampleDue = some s.now

/-- `writeReady(S)` in the words of R223. -/
abbrev Ready (s : State) : Prop :=
  s.params.writeEnabled = true ∧
    (s.wstate = .idle ∨ (s.wstate = .drain ∧ s.params.drainMs ≤ s.now / 1000 - s.doneAt))

/-- `alarmOK(S, k)` in the words of R225. -/
abbrev FloorElapsed (s : State) (k : Key) : Prop :=
  k ∉ s.params.alarmKeys ∨ s.lastAlarmDone = none ∨
    ∃ t ∈ s.lastAlarmDone, s.params.alarmMs ≤ s.now / 1000 - t

/-- The start condition of a write window (R242): the frame's bit count is WSTART and its command id qualifies. -/
abbrev WindowOpens (s : State) : Prop :=
  s.P.bits = s.params.wstart ∧ byteAt s.P.bytes 0 ∈ s.params.writeCmds

/-- The frame makes the gate open, or finds it open (R266). -/
abbrev PassesGate (s : State) (e : Entry) : Prop :=
  s.gateOpen = true ∨ s.params.gateBits ≤ e.bitCount ∨ byteAt e.bytes 0 = 0x05

/-- The frame repeats its installer loop's tracker (R268), over that loop's leading bytes. -/
abbrev RepeatsLoop (s : State) (e : Entry) : Prop :=
  (byteAt e.bytes 0 = 0x0A ∧ s.T0A.take s.params.len0A = e.bytes.take s.params.len0A) ∨
  (byteAt e.bytes 0 = 0xE6 ∧ byteAt e.bytes 2 = 0x20 ∧
    s.TE6_20.take s.params.lenE6_20 = e.bytes.take s.params.lenE6_20) ∨
  (byteAt e.bytes 0 = 0xE6 ∧ byteAt e.bytes 2 = 0x03 ∧ s.params.partitions5to8 = true ∧
    s.TE6_03.take s.params.lenE6_03 = e.bytes.take s.params.lenE6_03)

/-- The frame repeats the general tracker, in all N bytes (R270). -/
abbrev RepeatsGeneral (s : State) (e : Entry) : Prop :=
  s.TGen.take s.params.N = e.bytes.take s.params.N

/-- A panel frame too short to keep (R198). -/
abbrev TooShort (B : FrameBuf) : Prop := B.bits < 8

/-- A panel frame the capture stage finds redundant: id 0x05 or 0x1B, all N bytes as that id's tracker (R198). -/
abbrev RepeatsStatus (s : State) (B : FrameBuf) : Prop :=
  (byteAt B.bytes 0 = 0x05 ∧ s.T05.take s.params.N = B.bytes.take s.params.N) ∨
  (byteAt B.bytes 0 = 0x1B ∧ s.T1B.take s.params.N = B.bytes.take s.params.N)

/-- A tracker after it was compared over `L` bytes with `B`: its first `L` bytes are those of `B` (R93). -/
def tracked (T B : List Byte) (L : Nat) : List Byte := B.take L ++ T.drop L

/-- The bit `W − i` of the pattern of the pass in progress, for window position `i` (R126, R222). For a pass that is not of
its key's class, which no run reaches, it is the bit of the pattern log 15 chooses. -/
def sentBit (p : Params) (pass : WPass) (k : Key) (i : Nat) : Bool :=
  match pass with
  | .plain => (p.keyPattern8.getD k.val 0).getLsbD (8 - i)
  | .pass1 => (0xFFFFFF#24).getLsbD (24 - i)
  | .pass2 => (p.keyPattern24.getD (k.val - 12) 0).getLsbD (24 - i)

/-- The width of a pass's window (R222). -/
def sentWidth (pass : WPass) : Nat := if pass = .plain then 8 else 24

/-- The key R235 stages, if there is one now: the head of the pending sequence. -/
abbrev Stages (s : State) (k : Key) : Prop := s.seq.head? = some k ∧ Ready s ∧ FloorElapsed s k

/-- A poll before it looks at the queue, in the words of R260 to R262: the next key of a sequence staged, the
connection evaluated. -/
def pollBegun (s : State) : State :=
  let alive := decide (s.now / 1000 - s.lastGap ≤ s.params.connectMs)
  let s' := { s with polled := true, connected := alive, changed := (alive != s.connected) }
  match s.seq with
  | [] => s'
  | k :: ks => if Ready s ∧ FloorElapsed s k then { s' with wkey := k, seq := ks, wstate := .staged } else s'

/-- EVENT if this poll saw a transition, else NONE: the result of a poll without a frame (R264, R273). -/
def emptyHanded (s : State) : OpResult := .pollp (if s.changed then 2 else 0)

/-- A run of a state is a disconnect poll: the poll sees the bus silent after it was connected (R263). -/
abbrev Disconnects (s : State) : Prop := s.connected = true ∧ s.params.connectMs < s.now / 1000 - s.lastGap

/-- A first byte in a reserved range of R117. -/
abbrev ReservedByte (op : Byte) : Prop :=
  (0x02 ≤ op.toNat ∧ op.toNat ≤ 0x1F) ∨ (0x22 ≤ op.toNat ∧ op.toNat ≤ 0x3F) ∨
  (0x81 ≤ op.toNat ∧ op.toNat ≤ 0x9F) ∨ (0xA1 ≤ op.toNat ∧ op.toNat ≤ 0xBF) ∨
  (0xC3 ≤ op.toNat ∧ op.toNat ≤ 0xCF) ∨ (0xD4 ≤ op.toNat ∧ op.toNat ≤ 0xDF) ∨
  (0xE1 ≤ op.toNat ∧ op.toNat ≤ 0xFF)

/-- The length R115 gives an operation from its first byte. -/
def lengthByFirstByte (op : Byte) : Nat :=
  if 0x60 ≤ op.toNat ∧ op.toNat ≤ 0x7F then 1 + op.toNat % 32 else if op = 0xE0 then 4 else 1

/-- When each refusal reason is recorded: the table of R306, for the next operation of the stream. -/
def RefusalDue (r : RefuseReason) (s : State) : Prop :=
  match r with
  | .reserved => decode s.pending = .error .reserved
  | .incomplete => decode s.pending = .error .incomplete
  | .deadline =>
    ∃ i rest, decode s.pending = .ok (i, rest) ∧ TimerFires s ∧ i ≠ .reset ∧ ∀ d, i ≠ .sample d
  | .deadlineCrossed =>
    ∃ delta rest t, decode s.pending = .ok (.wait delta, rest) ∧ s.sampleDue = some t ∧ s.now < t ∧
      t < s.now + delta.toNat
  | .noDeadline => ∃ d rest, decode s.pending = .ok (.sample d, rest) ∧ s.sampleDue = none
  | .early => ∃ d rest t, decode s.pending = .ok (.sample d, rest) ∧ s.sampleDue = some t ∧ s.now < t
  | .configAfterPoll =>
    ∃ m b rest, decode s.pending = .ok (.config m b, rest) ∧ s.polled = true ∧ ¬ TimerFires s

/-- The state without the two `overlong` flags, which no rule reads (R183). -/
def forgetOverlong (s : State) : State :=
  { s with P := { s.P with overlong := false }, M := { s.M with overlong := false } }

/-! ## Frames -/

/-- A frame buffer after the bits of a list, in order, from an empty one (R181). -/
def captureBits (n : Nat) (bs : List Bool) : FrameBuf := bs.foldl (fun B b => captureBit n b B) (emptyBuf n)

/-- The panel scratch a SAMPLE leaves before its completion check (R184, R189). -/
def panelAfter (d : Bool) (s : State) : FrameBuf :=
  if s.clk then captureBit s.params.N (d && !s.writeLow) s.P else s.P

/-- A module-half sample is captured (R190). -/
abbrev ModuleCaptured (s : State) : Prop :=
  s.clk = false ∧ s.cfgModule = true ∧ s.Q.length < s.params.moduleSkipLevel

/-- A module-half sample is skipped under backpressure (R190, condition E6 of R301). -/
abbrev ModuleSkipped (s : State) : Prop :=
  s.clk = false ∧ s.cfgModule = true ∧ s.params.moduleSkipLevel ≤ s.Q.length

/-- The module scratch a SAMPLE leaves before its completion check (R185, R190). -/
def moduleAfter (d : Bool) (s : State) : FrameBuf :=
  if ModuleCaptured s then captureBit s.params.N (d && !s.writeLow) s.M else s.M

/-- Module activity before the completion check (R191). -/
def activityAfter (d : Bool) (s : State) : Bool :=
  s.modActivity || decide (ModuleCaptured s ∧ (d && !s.writeLow) = false)

/-- Module skipping before the completion check (R190). -/
def skippedAfter (s : State) : Bool := s.modSkipped || decide (ModuleSkipped s)

/-- An admitted SAMPLE completes a frame (R168, R192). -/
abbrev Completes (s : State) : Prop := TimerFires s ∧ s.params.gapUs < s.clockHighTime

/-- A completing SAMPLE keeps its panel frame (R198). -/
abbrev KeepsFrame (d : Bool) (s : State) : Prop :=
  ¬ TooShort (panelAfter d s) ∧ ¬ RepeatsStatus s (panelAfter d s)

/-! ## Lists of operations -/

/-- A list of operations, one after the other (R94). -/
def execAll : List Instr → State → Host.Outcome State Fault Refusal
  | [], s => .next s
  | i :: is, s =>
    match exec i s with
    | .next t => execAll is t
    | .fault r => .fault r
    | .refused r => .refused r

/-- The reason the refusal at the end of a stream records, if the stream ends in one (R119, R306). -/
def reasonsOf : Option DecodeError → List RefuseReason
  | some .reserved => [.reserved]
  | some .incomplete => [.incomplete]
  | some .noOperation => []
  | none => []

/-- What a run did with its panel frames (R204). -/
structure Tally where
  completions : Nat
  enqueued : Nat
  short : Nat
  redundant : Nat
  full : Nat
deriving DecidableEq, Repr

/-- A tally with the events of one operation added. -/
def Tally.add (c : Tally) (i : Instr) (s t : State) : Tally where
  completions := c.completions + match i with
    | .sample _ => if Completes s then 1 else 0
    | _ => 0
  enqueued := c.enqueued + if s.Q.length < t.Q.length then 1 else 0
  short := c.short + match i with
    | .sample d => if Completes s ∧ TooShort (panelAfter d s) then 1 else 0
    | _ => 0
  redundant := c.redundant + match i with
    | .sample d => if Completes s ∧ ¬ TooShort (panelAfter d s) ∧ RepeatsStatus s (panelAfter d s) then 1 else 0
    | _ => 0
  full := c.full + match i with
    | .sample d => if Completes s ∧ KeepsFrame d s ∧ s.Q.length = s.params.QCAP then 1 else 0
    | _ => 0

/-- The tally of a run. -/
def tally : List Instr → State → Tally
  | [], _ => ⟨0, 0, 0, 0, 0⟩
  | i :: is, s =>
    match exec i s with
    | .next t => (tally is t).add i s t
    | .fault _ => ⟨0, 0, 0, 0, 0⟩
    | .refused _ => ⟨0, 0, 0, 0, 0⟩

/-! ## The invariant -/

/-- The bit count that a framer cursor stands for (R82, R84). -/
def cursorBits (idx sub : Nat) : Nat :=
  if idx = 0 then sub else if idx = 1 then 8 else 9 + 8 * (idx - 2) + sub

/-- A frame buffer as CaptureBit leaves it (R34, R82 to R85). -/
structure FrameBuf.WF (n : Nat) (B : FrameBuf) : Prop where
  length_eq : B.bytes.length = n
  idx_le : B.idx ≤ n
  sub_le : B.sub ≤ 7
  bits_eq : B.bits = cursorBits B.idx B.sub
  slot_sub : B.idx = 1 → B.sub = 0
  full_sub : B.idx = n → B.sub = 0
  overlong_full : B.overlong = true → B.idx = n
  /-- the byte being filled holds its bits right-aligned (R85) -/
  partial_small : (byteAt B.bytes B.idx).toNat < 2 ^ B.sub
  /-- bytes past the one being filled are 0 (R85) -/
  rest_zero : ∀ j < n, B.idx < j → byteAt B.bytes j = 0
  /-- the stop-bit slot holds 0 or 1 (R82) -/
  slot_bit : 2 ≤ B.idx → (byteAt B.bytes 1).toNat ≤ 1

/-- An Entry within its bounds (R35). -/
structure Entry.WF (n : Nat) (e : Entry) : Prop where
  length_eq : e.bytes.length = n
  bitCount_le : e.bitCount ≤ 8 * n - 7
  byteCount_le : e.byteCount ≤ n

/-- The invariant of every reachable state. -/
structure State.Inv (s : State) : Prop where
  params_valid : s.params.valid = true
  panel_wf : s.P.WF s.params.N
  module_wf : s.M.WF s.params.N
  t05_length : s.T05.length = s.params.N
  t1B_length : s.T1B.length = s.params.N
  t0A_length : s.T0A.length = s.params.N
  tE6_20_length : s.TE6_20.length = s.params.N
  tE6_03_length : s.TE6_03.length = s.params.N
  tGen_length : s.TGen.length = s.params.N
  /-- R40 -/
  queue_le : s.Q.length ≤ s.params.QCAP
  queue_wf : ∀ e ∈ s.Q, e.WF s.params.N
  /-- a queued frame is not too short (R198) -/
  queue_kept : ∀ e ∈ s.Q, 8 ≤ e.bitCount
  slot_wf : s.slot.WF s.params.N
  panelOut_wf : s.panelOut.WF s.params.N
  moduleOut_wf : s.moduleOut.WF s.params.N
  /-- times never lie in the future (R10) -/
  lastRise_le : s.lastRise ≤ s.now
  clockHigh_le : s.clockHighTime ≤ s.now
  lastGap_le : s.lastGap ≤ s.now / 1000
  doneAt_le : s.doneAt ≤ s.now / 1000
  alarm_le : ∀ t ∈ s.lastAlarmDone, t ≤ s.now / 1000
  /-- an armed deadline is never passed (R47) -/
  due_ge : ∀ t ∈ s.sampleDue, s.now ≤ t
  due_le : ∀ t ∈ s.sampleDue, t ≤ s.now + s.params.sampleDelayUs
  /-- the block never pulls the line low in the panel half (R189) -/
  high_released : s.clk = true → s.writeLow = false
  /-- a pass in progress is inside its window (R241) -/
  active_inside : s.wstate = .active → s.params.wstart ≤ s.P.bits
  /-- a pass in progress rides on a qualifying frame (R242) -/
  active_qualifies : s.wstate = .active → byteAt s.P.bytes 0 ∈ s.params.writeCmds
  /-- a pass in progress is of its key's class (R241) -/
  active_class : s.wstate = .active → (s.wpass = .plain ↔ s.wkey.val < 12)
  /-- the two-pass handshake is for command-class keys only (R244) -/
  handshake_class : s.wstate = .wait2 ∨ s.wstate = .armed2 → 12 ≤ s.wkey.val
  seq_le : s.seq.length ≤ s.params.seqCap
  /-- without a write pin the injector never acts (R223, R241; D24) -/
  disabled_quiet : s.params.writeEnabled = false → s.wstate = .idle ∧ s.writeLow = false ∧ s.seq = []

/-- The states some run reaches, for some valid parameters and some operation stream (R33, R331). -/
inductive Reachable : State → Prop where
  | powerOn (p : Params) (bs : List Byte) (h : p.valid = true) : Reachable { State.powerOn p with pending := bs }
  | step {s t : State} (h : Reachable s) (e : step s = .next t) : Reachable t

end Sys2Proof.Machine
end

