-- ==== Sys2Proof/Certificates/Slice0/Obligations.lean ====
section
/-! DEFINITION. The statements for the provers: what the spec's rules say the machine does. -/

open Sys2Proof Sys2Proof.Machine

/-! ## Encodings -/

/-- Decoding the word of a well-formed operation gives the operation back, whatever follows it in the stream (R112 to
R116). -/
def Obligations.DecodeOfEncodeIsTheOperation : Prop :=
  ∀ (i : Instr) (rest : List Byte), i.wellFormed = true → decode (encode i ++ rest) = .ok (i, rest)

/-- A stream decodes in one way only: the bytes an operation was read from are its own word, and the operation is well
formed (R112 to R117). -/
def Obligations.DecodedBytesAreTheOperationsWord : Prop :=
  ∀ (bs rest : List Byte) (i : Instr), decode bs = .ok (i, rest) → i.wellFormed = true ∧ bs = encode i ++ rest

/-- Words written out from the patterns of R112 to R114, one for each operation, decode to what they stand for. -/
def Obligations.WordsOfTheOpcodeMapDecode : Prop :=
  decode [0b00000001] = .ok (.edge true, []) ∧ decode [0b00000000] = .ok (.edge false, []) ∧
  decode [0b00100000] = .ok (.sample false, []) ∧ decode [0b00100001] = .ok (.sample true, []) ∧
  decode [0b01001100] = .ok (.wrkey 12, []) ∧ decode [0b01010000] = .ok (.wrkey 16, []) ∧
  decode [0b01100011, 0b00000001, 0b00010100, 0b00000010] = .ok (.wrseq [1, 20, 2], []) ∧
  decode [0b01100000] = .ok (.wrseq [], []) ∧
  decode [0b10000000] = .ok (.pollp, []) ∧ decode [0b10100000] = .ok (.pollm, []) ∧
  decode [0b11000000] = .ok (.status, []) ∧ decode [0b11000001] = .ok (.ackovf, []) ∧
  decode [0b11000010] = .ok (.reset, []) ∧
  decode [0b11010010] = .ok (.config true false, []) ∧ decode [0b11010001] = .ok (.config false true, []) ∧
  decode [0b11100000, 0x2D, 0xCA, 0xA7] = .ok (.wait 3000999, [])

/-- Reserved encodings are refused by name (R117): a first byte in a reserved range, or a bad key byte in a WRSEQ whose
key bytes are all there, records `reserved`; nothing else of the block changes. Every other first byte begins some
operation. Two points are the model's (log 4): decoding stops there, so the rest of the stream is dropped (DEDUCED from
R119), and decoding comes before the deadline rule, so at the sample instant too the reason is `reserved` and not
`deadline` (DESIGN CHOICE: the spec gives no order of the two tests). -/
def Obligations.ReservedEncodingsAreRefused : Prop :=
  (∀ (s : State) (op : Byte) (rest : List Byte), s.pending = op :: rest → ReservedByte op →
    step s = .next { s with refusals := s.refusals ++ [.reserved], pending := [] }) ∧
  (∀ (s : State) (op : Byte) (keys rest : List Byte), 0x60 ≤ op.toNat → op.toNat ≤ 0x7F →
    keys.length = op.toNat % 32 → s.pending = op :: (keys ++ rest) → (∃ b ∈ keys, 32 ≤ b.toNat) →
    step s = .next { s with refusals := s.refusals ++ [.reserved], pending := [] }) ∧
  (∀ op : Byte, ¬ ReservedByte op → ∃ rest i, decode (op :: rest) = .ok (i, []))

/-- The first byte alone gives an operation's length: that many bytes are read, and a stream that ends before them is
refused as incomplete, nothing else of the block changing (R115). Three points are the model's: a cut WRSEQ with a bad
key byte among the bytes that did arrive is `incomplete`, where R117 would give `reserved` (log 5, DESIGN CHOICE); so is
a cut word at the sample instant, decoding coming before the deadline rule (log 4, DESIGN CHOICE); and the stream is then
empty (log 4, DEDUCED from R119). -/
def Obligations.FirstByteGivesTheLength : Prop :=
  ∀ (s : State) (op : Byte) (rest : List Byte), s.pending = op :: rest →
    (rest.length + 1 < lengthByFirstByte op →
      step s = .next { s with refusals := s.refusals ++ [.incomplete], pending := [] }) ∧
    (∀ i rest', decode (op :: rest) = .ok (i, rest') →
      lengthByFirstByte op ≤ rest.length + 1 ∧ rest' = rest.drop (lengthByFirstByte op - 1))

/-- Any byte sequence decodes into a list of operations followed by at most one refusal, and decoding stops there
(R119): the bytes are the operations' words, then nothing, or a tail that is refused as reserved or incomplete. -/
def Obligations.StreamIsOperationsThenAtMostOneRefusal : Prop :=
  ∀ bs : List Byte, ∃ tail,
    bs = encodeStream (decodeStream bs).1 ++ tail ∧
    (∀ i ∈ (decodeStream bs).1, i.wellFormed = true) ∧
    (((decodeStream bs).2 = none ∧ tail = []) ∨
      ((decodeStream bs).2 = some .reserved ∧ decode tail = .error .reserved) ∨
      ((decodeStream bs).2 = some .incomplete ∧ decode tail = .error .incomplete))

/-- A run over the words of a list of operations does exactly what the operations do, one after the other in their
order (R94, R95, R119): the stream is read whole and nothing else of it shows in the state. -/
def Obligations.RunOfEncodedOperationsIsTheOperations : Prop :=
  ∀ (is : List Instr) (s : State), (∀ i ∈ is, i.wellFormed = true) →
    Sys2Proof.core.run is.length ({ s with pending := encodeStream is } : State) =
      execAll is { s with pending := [] }

/-! ## The step -/

/-- When the stream's next bytes decode to an operation, the step is that operation's effect, the stream moved past its
word (R94, R95). -/
def Obligations.StepRunsTheDecodedOperation : Prop :=
  ∀ (s : State) (i : Instr) (rest : List Byte), decode s.pending = .ok (i, rest) →
    step s = exec i { s with pending := rest }

/-- The block has no trap and cannot get stuck: every operation, from every state, and every step ends in a next state
(R300, R317). That a refused operation is a next state too, and never the host's refusal, is log 1 (DEDUCED from R306);
that a step with an empty stream is one is log 3 (DESIGN CHOICE). -/
def Obligations.EveryStepAnswersANextState : Prop :=
  (∀ (i : Instr) (s : State), ∃ t, exec i s = .next t) ∧ (∀ s : State, ∃ t, step s = .next t)

/-- The model's choice (log 3): with nothing left in the stream the block waits, unchanged. -/
def Obligations.EmptyStreamWaits : Prop :=
  ∀ s : State, s.pending = [] → step s = .next s

/-! ## Admission and refusals -/

/-- At the sample instant every operation but SAMPLE and RESET is refused with reason `deadline`, and nothing else
changes (R159). -/
def Obligations.DeadlineAdmitsOnlySampleAndReset : Prop :=
  ∀ (s : State) (i : Instr), TimerFires s → i ≠ .reset → (∀ d, i ≠ .sample d) →
    exec i s = .next { s with refusals := s.refusals ++ [.deadline] }

/-- The table of refusals (R306), in states whose deadline is not in the past (an invariant: R47): a step records a
reason exactly when the table says so, a step that records one leaves every other field but the operation stream
unchanged, and after a word that does not decode the stream is empty (R119; log 4, DEDUCED). Where two rows of the table
could apply the model chooses: a word that does not decode gets `reserved` or `incomplete` at the sample instant too, not
`deadline` (log 4, DESIGN CHOICE), and a cut WRSEQ with a bad key byte gets `incomplete` (log 5, DESIGN CHOICE). -/
def Obligations.RefusalsFollowTheirTable : Prop :=
  ∀ (s t : State), (∀ due ∈ s.sampleDue, s.now ≤ due) → step s = .next t →
    (∀ r, t.refusals = s.refusals ++ [r] ↔ RefusalDue r s) ∧
    (t.refusals = s.refusals ∨ ∃ r, t = { s with refusals := s.refusals ++ [r], pending := t.pending }) ∧
    (∀ e, decode s.pending = .error e → t.pending = [])

/-- SAMPLE is admitted iff the timer fires now; else it is refused as `no_deadline` or `early` (R168). -/
def Obligations.SampleIsAdmittedAtItsDeadline : Prop :=
  ∀ (s : State) (d : Bool),
    (s.sampleDue = none → exec (.sample d) s = .next { s with refusals := s.refusals ++ [.noDeadline] }) ∧
    (∀ due, s.sampleDue = some due → s.now < due →
      exec (.sample d) s = .next { s with refusals := s.refusals ++ [.early] }) ∧
    (TimerFires s → ∃ t, exec (.sample d) s = .next t ∧ t.sampleDue = none ∧ t.refusals = s.refusals)

/-- Time always reaches an armed deadline, and the sample is then taken (R317, R167). -/
def Obligations.ArmedSampleIsReached : Prop :=
  ∀ (s : State) (due : Nat) (d : Bool), s.sampleDue = some due → s.now < due → due - s.now < 2 ^ 24 →
    ∃ t u, exec (.wait (BitVec.ofNat 24 (due - s.now))) s = .next t ∧ t = { s with now := due } ∧
      exec (.sample d) t = .next u ∧ u.sampleDue = none ∧ u.refusals = s.refusals

/-! ## LineSampler -/

/-- A rising edge (R160, R162, R164), whatever level the last edge left (R161). -/
def Obligations.RisingEdgeResult : Prop :=
  ∀ s : State, ¬ TimerFires s →
    exec (.edge true) s = .next { s with
      clk := true
      lastRise := s.now
      writeLow := false
      sampleDue := some (s.now + s.params.sampleDelayUs) }

/-- Every edge, in either direction, arms the timer anew, in place of any deadline still pending (R164). -/
def Obligations.EveryEdgeArmsTheTimer : Prop :=
  ∀ (s : State) (l : Bool), ¬ TimerFires s →
    ∃ t, exec (.edge l) s = .next t ∧ t.sampleDue = some (s.now + s.params.sampleDelayUs) ∧ t.clk = l ∧ t.now = s.now

/-- A falling edge while no pass is in progress and none starts here: without a write pin, with no key waiting for a
window, or outside the start of one (R160, R163, R241, R242). -/
def Obligations.FallingEdgeWithoutPass : Prop :=
  ∀ s : State, ¬ TimerFires s →
    (s.params.writeEnabled = false ∨
      (s.wstate ≠ .active ∧ ¬ ((s.wstate = .staged ∨ s.wstate = .armed2) ∧ WindowOpens s))) →
    exec (.edge false) s = .next { s with
      clk := false
      clockHighTime := s.now - s.lastRise
      sampleDue := some (s.now + s.params.sampleDelayUs) }

/-- A falling edge that starts a pass (R241, R242): the pass is the second after a first one, else of the key's class,
and its first position is driven at once. The pattern of a pass
that is not of its key's class, which no run reaches, is the model's choice (log 15). -/
def Obligations.FallingEdgeStartsPass : Prop :=
  ∀ (s : State) (pass : WPass), ¬ TimerFires s → s.params.writeEnabled = true →
    (s.wstate = .staged ∨ s.wstate = .armed2) → WindowOpens s →
    pass = (if s.wstate = .armed2 then .pass2 else if 12 ≤ s.wkey.val then .pass1 else .plain) →
    exec (.edge false) s = .next { s with
      clk := false
      clockHighTime := s.now - s.lastRise
      sampleDue := some (s.now + s.params.sampleDelayUs)
      wpass := pass
      wstate := .active
      writeLow := !sentBit s.params pass s.wkey 1 }

/-- A falling edge inside a window, before its last position: position i drives the line low iff bit W − i of the
pattern is 0 (R241, R126, R222). The pattern of a pass
that is not of its key's class, which no run reaches, is the model's choice (log 15). -/
def Obligations.FallingEdgeDrivesPosition : Prop :=
  ∀ (s : State) (i : Nat), ¬ TimerFires s → s.params.writeEnabled = true → s.wstate = .active → 1 ≤ i →
    s.P.bits + 1 = s.params.wstart + i → i < sentWidth s.wpass →
    exec (.edge false) s = .next { s with
      clk := false
      clockHighTime := s.now - s.lastRise
      sampleDue := some (s.now + s.params.sampleDelayUs)
      writeLow := !sentBit s.params s.wpass s.wkey i }

/-- A falling edge at or past the last position ends the pass (R243): the first pass of two waits for the gap, any other
starts the drain, and an alarm-class key stamps its floor. The pattern of a pass
that is not of its key's class, which no run reaches, is the model's choice (log 15). -/
def Obligations.FallingEdgeEndsPass : Prop :=
  ∀ (s : State) (i : Nat), ¬ TimerFires s → s.params.writeEnabled = true → s.wstate = .active →
    s.P.bits + 1 = s.params.wstart + i → sentWidth s.wpass ≤ i →
    exec (.edge false) s = .next { s with
      clk := false
      clockHighTime := s.now - s.lastRise
      sampleDue := some (s.now + s.params.sampleDelayUs)
      writeLow := if i = sentWidth s.wpass then !sentBit s.params s.wpass s.wkey i else s.writeLow
      wstate := if s.wpass = .pass1 then .wait2 else .drain
      doneAt := if s.wpass = .pass1 then s.doneAt else s.now / 1000
      lastAlarmDone := if s.wpass ≠ .pass1 ∧ s.wkey ∈ s.params.alarmKeys then some (s.now / 1000)
        else s.lastAlarmDone }

/-- Key '1' in its window (R247): the line is pulled low at positions 3 and 7 and nowhere else, and the eighth position
ends the pass. -/
def Obligations.KeyOnePullsLowAtThreeAndSeven : Prop :=
  ∀ (s : State) (i : Nat), s.params.valid = true → ¬ TimerFires s → s.params.writeEnabled = true →
    s.wstate = .active → s.wpass = .plain → s.wkey = 1 → 1 ≤ i → i ≤ 8 → s.P.bits + 1 = s.params.wstart + i →
    ∃ t, exec (.edge false) s = .next t ∧ (t.writeLow = true ↔ i = 3 ∨ i = 7) ∧
      (t.wstate = .drain ↔ i = 8) ∧ (t.wstate = .active ↔ i < 8)

/-- The placeholder pass of a command-class key never pulls the line low (R125, R248). -/
def Obligations.PlaceholderPassLeavesTheLineHigh : Prop :=
  ∀ (s : State) (i : Nat), ¬ TimerFires s → s.params.writeEnabled = true → s.wstate = .active → s.wpass = .pass1 →
    1 ≤ i → i ≤ 24 → s.P.bits + 1 = s.params.wstart + i →
    ∃ t, exec (.edge false) s = .next t ∧ t.writeLow = false ∧ (t.wstate = .wait2 ↔ i = 24)

/-- WAIT (R166): time passes by Δ unless that would pass an armed deadline, which is refused; no other operation changes
the time. -/
def Obligations.WaitIsTheOnlyClock : Prop :=
  (∀ (s : State) (delta : BitVec 24), ¬ TimerFires s →
    ((∃ due ∈ s.sampleDue, due < s.now + delta.toNat) →
      exec (.wait delta) s = .next { s with refusals := s.refusals ++ [.deadlineCrossed] }) ∧
    ((∀ due ∈ s.sampleDue, s.now + delta.toNat ≤ due) →
      exec (.wait delta) s = .next { s with now := s.now + delta.toNat })) ∧
  (∀ (s t : State) (i : Instr), (∀ delta, i ≠ .wait delta) → exec i s = .next t → t.now = s.now)

/-! ## BitCapture -/

/-- A panel-half SAMPLE with no gap: the sampled level is shifted into the panel scratch (R180, R184, R189). -/
def Obligations.PanelHalfSampleResult : Prop :=
  ∀ (s : State) (d : Bool), TimerFires s → s.clk = true → s.clockHighTime ≤ s.params.gapUs →
    exec (.sample d) s = .next { s with
      sampleDue := none
      P := captureBit s.params.N (d && !s.writeLow) s.P }

/-- In reachable states a panel-half SAMPLE reads the level the other parties drive: the block's own output is released
by then (R189). -/
def Obligations.PanelHalfReadsTheBusLevel : Prop :=
  ∀ (s : State) (d : Bool), s.Inv → TimerFires s → s.clk = true → s.clockHighTime ≤ s.params.gapUs →
    exec (.sample d) s = .next { s with sampleDue := none, P := captureBit s.params.N d s.P }

/-- A module-half SAMPLE with no gap (R190, R191): captured with module processing on and the queue below the skip
level, a captured low level marking activity; skipped, and marked so, at or above it; dropped with processing off. -/
def Obligations.ModuleHalfSampleResult : Prop :=
  ∀ (s : State) (d line : Bool), TimerFires s → s.clk = false → s.clockHighTime ≤ s.params.gapUs →
    line = (d && !s.writeLow) →
    (s.cfgModule = true → s.Q.length < s.params.moduleSkipLevel →
      exec (.sample d) s = .next { s with
        sampleDue := none
        M := captureBit s.params.N line s.M
        modActivity := if line = false then true else s.modActivity }) ∧
    (s.cfgModule = true → s.params.moduleSkipLevel ≤ s.Q.length →
      exec (.sample d) s = .next { s with sampleDue := none, modSkipped := true }) ∧
    (s.cfgModule = false → exec (.sample d) s = .next { s with sampleDue := none })

/-- A SAMPLE that completes a frame (R196 to R202, R245): the whole state it leaves. -/
def Obligations.CompletionResult : Prop :=
  ∀ (s : State) (d : Bool), Completes s →
    exec (.sample d) s = .next { s with
      sampleDue := none
      lastGap := s.now / 1000
      T05 := if ¬ TooShort (panelAfter d s) ∧ byteAt (panelAfter d s).bytes 0 = 0x05
        then tracked s.T05 (panelAfter d s).bytes s.params.N else s.T05
      T1B := if ¬ TooShort (panelAfter d s) ∧ byteAt (panelAfter d s).bytes 0 = 0x1B
        then tracked s.T1B (panelAfter d s).bytes s.params.N else s.T1B
      Q := if KeepsFrame d s ∧ s.Q.length ≠ s.params.QCAP then s.Q ++ [entryOf (panelAfter d s)] else s.Q
      overflow := if KeepsFrame d s ∧ s.Q.length = s.params.QCAP then true else s.overflow
      slot := if activityAfter d s = true ∧ skippedAfter s = false then entryOf (moduleAfter d s) else s.slot
      captured := if activityAfter d s = true ∧ skippedAfter s = false then true else s.captured
      wstate := if s.wstate = .wait2 ∨ (s.wstate = .active ∧ s.wpass = .pass1) then .armed2
        else if s.wstate = .active then .drain else s.wstate
      doneAt := if s.wstate = .active ∧ s.wpass ≠ .pass1 then s.now / 1000 else s.doneAt
      lastAlarmDone := if s.wstate = .active ∧ s.wpass ≠ .pass1 ∧ s.wkey ∈ s.params.alarmKeys
        then some (s.now / 1000) else s.lastAlarmDone
      P := emptyBuf s.params.N
      M := emptyBuf s.params.N
      modActivity := false
      modSkipped := false
      clockHighTime := 0 }

/-- The byte layout of a frame (R82, R83): of a frame's bits in arrival order (index 0 is frame bit 1), bits 1 to 8 are
byte 0, the first at bit 7; bit 9 stands alone in byte 1 as 0 or 1; and bits 8k − 6 to 8k + 1 are byte k, the first at
bit 7. -/
def Obligations.FrameBytesHoldTheBitsInOrder : Prop :=
  ∀ (n : Nat) (bits : List Bool), 3 ≤ n → bits.length ≤ 8 * n - 7 →
    (captureBits n bits).bits = bits.length ∧
    (8 ≤ bits.length → ∀ j < 8, (byteAt (captureBits n bits).bytes 0).getLsbD (7 - j) = bits.getD j false) ∧
    (9 ≤ bits.length → byteAt (captureBits n bits).bytes 1 = if bits.getD 8 false then 1 else 0) ∧
    (∀ k, 2 ≤ k → 8 * k + 1 ≤ bits.length → ∀ j < 8,
      (byteAt (captureBits n bits).bytes k).getLsbD (7 - j) = bits.getD (8 * k - 7 + j) false)

/-- An incomplete byte holds its bits right-aligned, the earliest highest, with zeros above; bytes past it are 0 (R85).
With `idx ≠ 1`, the byte being filled has its first bit at index 0 of the frame, or at index 8·idx − 7. -/
def Obligations.IncompleteByteIsRightAligned : Prop :=
  ∀ (n : Nat) (bits : List Bool), 3 ≤ n → bits.length ≤ 8 * n - 7 →
    (∀ j < (captureBits n bits).sub,
      (byteAt (captureBits n bits).bytes (captureBits n bits).idx).getLsbD ((captureBits n bits).sub - 1 - j) =
        bits.getD ((if (captureBits n bits).idx = 0 then 0 else 8 * (captureBits n bits).idx - 7) + j) false) ∧
    (∀ j, (captureBits n bits).sub ≤ j →
      (byteAt (captureBits n bits).bytes (captureBits n bits).idx).getLsbD j = false) ∧
    (∀ k, (captureBits n bits).idx < k → byteAt (captureBits n bits).bytes k = 0)

/-- Capacity (R183, R84): a frame takes 8·N − 7 bits, and every further bit of the cycle is dropped, only the overlong
flag being set. -/
def Obligations.BitsPastCapacityAreDropped : Prop :=
  ∀ (n : Nat) (bits extra : List Bool), 3 ≤ n → bits.length = 8 * n - 7 → extra ≠ [] →
    (captureBits n bits).idx = n ∧ (captureBits n bits).overlong = false ∧
    captureBits n (bits ++ extra) = { captureBits n bits with overlong := true }

/-- The count law (R204): over any run from any state, the frames enqueued are the completions less those too short,
those redundant at the capture stage, and those dropped at a full queue. -/
def Obligations.EnqueuedFramesCountLaw : Prop :=
  ∀ (is : List Instr) (s : State),
    (tally is s).completions =
      (tally is s).enqueued + (tally is s).short + (tally is s).redundant + (tally is s).full

/-- One clock cycle BIT p, m (R137), with the sample delay it is written for and no gap in it: admitted throughout, it
takes 1000 µs and puts bit p into the panel frame. -/
def Obligations.BitCycleCapturesItsBit : Prop :=
  ∀ (s : State) (p m : Bool), s.params.sampleDelayUs = 250 → 500 ≤ s.params.gapUs → s.sampleDue = none →
    s.clockHighTime ≤ s.params.gapUs →
    ∃ t, execAll (pseudoBit p m) s = .next t ∧ t.now = s.now + 1000 ∧ t.sampleDue = none ∧
      t.refusals = s.refusals ∧ t.P = captureBit s.params.N p s.P ∧ t.Q = s.Q ∧ t.lastGap = s.lastGap ∧
      t.T05 = s.T05 ∧ t.T1B = s.T1B ∧ t.clockHighTime = 500 ∧ t.overflow = s.overflow ∧ t.params = s.params

/-- FRAME notation (R137, R138): sent from an empty panel scratch, the K bits of FRAME b1 … bK become bits 1..K of one
panel frame, which its gap completes: it is enqueued unless too short, redundant or without room; the last bit belongs
to the frame its gap ends. -/
def Obligations.FrameNotationSendsOneFrame : Prop :=
  ∀ (s : State) (bits : List Bool), s.params.sampleDelayUs = 250 → 500 ≤ s.params.gapUs → s.params.gapUs < 1500 →
    s.sampleDue = none → s.clockHighTime ≤ s.params.gapUs → s.P = emptyBuf s.params.N → bits ≠ [] →
    ∃ t, execAll (pseudoFrame bits) s = .next t ∧ t.now = s.now + 1000 * bits.length + 1000 ∧
      t.refusals = s.refusals ∧ t.P = emptyBuf s.params.N ∧ t.clockHighTime = 0 ∧ t.sampleDue = none ∧
      t.lastGap = (s.now + 1000 * bits.length + 750) / 1000 ∧
      t.Q = (if ¬ TooShort (captureBits s.params.N bits) ∧ ¬ RepeatsStatus s (captureBits s.params.N bits) ∧
          s.Q.length ≠ s.params.QCAP
        then s.Q ++ [entryOf (captureBits s.params.N bits)] else s.Q)

/-! ## WriteInjector -/

/-- WRKEY k (R230): a valid key is staged, superseding any pending sequence, when the block is ready and the key's floor
has elapsed; every other request changes nothing. -/
def Obligations.WrkeyResult : Prop :=
  ∀ (s : State) (k : KeyCode), ¬ TimerFires s →
    (∀ h : k.toNat < 16, Ready s → FloorElapsed s ⟨k.toNat, h⟩ →
      exec (.wrkey k) s = .next { s with seq := [], wkey := ⟨k.toNat, h⟩, wstate := .staged }) ∧
    ((∀ h : k.toNat < 16, ¬ (Ready s ∧ FloorElapsed s ⟨k.toNat, h⟩)) → exec (.wrkey k) s = .next s)

/-- WRSEQ k1..kn (R233, R235): when the block is ready, the valid keys cut to SEQ_CAP supersede any pending sequence, and
the first is staged now if its floor has elapsed; when it is not ready nothing changes. -/
def Obligations.WrseqResult : Prop :=
  ∀ (s : State) (ks : List KeyCode) (keys : List Key), ¬ TimerFires s →
    keys = (ks.filterMap fun k => if h : k.toNat < 16 then some (⟨k.toNat, h⟩ : Key) else none).take s.params.seqCap →
    (Ready s → keys = [] → exec (.wrseq ks) s = .next { s with seq := [] }) ∧
    (∀ k rest, Ready s → keys = k :: rest → FloorElapsed s k →
      exec (.wrseq ks) s = .next { s with seq := rest, wkey := k, wstate := .staged }) ∧
    (∀ k rest, Ready s → keys = k :: rest → ¬ FloorElapsed s k →
      exec (.wrseq ks) s = .next { s with seq := keys }) ∧
    (¬ Ready s → exec (.wrseq ks) s = .next s)

/-- The injector changes state only as the table of R220 says: staging by a call while ready, a window start, the end of
a pass, a gap, a restart. No call aborts a write. -/
def Obligations.InjectorMovesOnlyByItsTable : Prop :=
  ∀ (s t : State) (i : Instr), exec i s = .next t → t.wstate ≠ s.wstate →
    (t.wstate = .staged ∧ Ready s ∧ (i = .pollp ∨ (∃ k, i = .wrkey k) ∨ (∃ ks, i = .wrseq ks))) ∨
    (t.wstate = .active ∧ i = .edge false ∧ (s.wstate = .staged ∨ s.wstate = .armed2) ∧ WindowOpens s ∧
      t.wpass = (if s.wstate = .armed2 then .pass2 else if 12 ≤ s.wkey.val then .pass1 else .plain)) ∨
    (s.wstate = .active ∧ i = .edge false ∧ s.params.wstart + sentWidth s.wpass ≤ s.P.bits + 1 ∧
      t.wstate = (if s.wpass = .pass1 then .wait2 else .drain)) ∨
    ((∃ d, i = .sample d) ∧ Completes s ∧
      ((s.wstate = .wait2 ∧ t.wstate = .armed2) ∨ (s.wstate = .active ∧ s.wpass = .pass1 ∧ t.wstate = .armed2) ∨
        (s.wstate = .active ∧ s.wpass ≠ .pass1 ∧ t.wstate = .drain))) ∨
    (i = .reset ∧ t.wstate = .idle)

/-! ## Consumer -/

/-- Every admitted POLLP first stages the next key of a pending sequence if the injector is ready for it (R261, R235),
and evaluates the connection, `changed` marking exactly a transition (R262). -/
def Obligations.PollpStagesAndEvaluates : Prop :=
  ∀ s : State, ¬ TimerFires s →
    ∃ t, exec .pollp s = .next t ∧ t.polled = true ∧
      t.connected = decide (s.now / 1000 - s.lastGap ≤ s.params.connectMs) ∧
      (t.changed = true ↔ t.connected ≠ s.connected) ∧
      (∀ k, Stages s k → t.wkey = k ∧ t.seq = s.seq.tail ∧ t.wstate = .staged) ∧
      ((∀ k, ¬ Stages s k) → t.wkey = s.wkey ∧ t.seq = s.seq ∧ t.wstate = s.wstate)

/-- A poll that sees the bus lost returns EVENT at once: nothing is dequeued and `panelOut` is unchanged (R263). -/
def Obligations.PollpReportsALostBus : Prop :=
  ∀ s : State, ¬ TimerFires s → Disconnects s →
    exec .pollp s = .next { pollBegun s with result := some (.pollp 2) }

/-- A poll of an empty queue processes no frame: EVENT if it saw a transition, else NONE (R264). -/
def Obligations.PollpOfAnEmptyQueue : Prop :=
  ∀ s : State, ¬ TimerFires s → ¬ Disconnects s → s.Q = [] →
    exec .pollp s = .next { pollBegun s with result := some (emptyHanded (pollBegun s)) }

/-- A frame that meets the closed gate and does not open it is dropped and updates no tracker; `panelOut` is then any
Entry (R266, R273). The draw and the counter `draws` that it advances are the model's (log 9, DEDUCED from R273). -/
def Obligations.PollpDropsAtTheClosedGate : Prop :=
  ∀ (s : State) (e : Entry) (rest : List Entry), ¬ TimerFires s → ¬ Disconnects s → s.Q = e :: rest →
    ¬ PassesGate s e →
    ∃ x : Entry, x.WF s.params.N ∧
      exec .pollp s = .next { pollBegun s with
        Q := rest
        panelOut := x
        draws := s.draws + 1
        result := some (emptyHanded (pollBegun s)) }

/-- A frame past the gate that repeats its installer loop's tracker is dropped, whatever the redundancy switch says, and
reaches no later tracker (R268, R269, R271); `panelOut` is then any Entry (R273). The draw and the counter `draws` that it
advances are the model's (log 9, DEDUCED from R273). -/
def Obligations.PollpSuppressesRepeatedLoops : Prop :=
  ∀ (s : State) (e : Entry) (rest : List Entry), ¬ TimerFires s → ¬ Disconnects s → s.Q = e :: rest →
    PassesGate s e → RepeatsLoop s e →
    ∃ x : Entry, x.WF s.params.N ∧
      exec .pollp s = .next { pollBegun s with
        Q := rest
        gateOpen := true
        panelOut := x
        draws := s.draws + 1
        result := some (emptyHanded (pollBegun s)) }

/-- A frame past the gate and its loop's tracker that repeats the general tracker is dropped when general suppression is
on; its loop's tracker has taken its leading bytes (R270, R268); `panelOut` is then any Entry (R273). The draw and the
counter `draws` that it advances are the model's (log 9, DEDUCED from R273). -/
def Obligations.PollpSuppressesRepeatedFrames : Prop :=
  ∀ (s : State) (e : Entry) (rest : List Entry), ¬ TimerFires s → ¬ Disconnects s → s.Q = e :: rest →
    PassesGate s e → ¬ RepeatsLoop s e → s.cfgRedundant = true → RepeatsGeneral s e →
    ∃ x : Entry, x.WF s.params.N ∧
      exec .pollp s = .next { pollBegun s with
        Q := rest
        gateOpen := true
        T0A := if byteAt e.bytes 0 = 0x0A then tracked s.T0A e.bytes s.params.len0A else s.T0A
        TE6_20 := if byteAt e.bytes 0 = 0xE6 ∧ byteAt e.bytes 2 = 0x20
          then tracked s.TE6_20 e.bytes s.params.lenE6_20 else s.TE6_20
        TE6_03 := if byteAt e.bytes 0 = 0xE6 ∧ byteAt e.bytes 2 = 0x03 ∧ s.params.partitions5to8 = true
          then tracked s.TE6_03 e.bytes s.params.lenE6_03 else s.TE6_03
        panelOut := x
        draws := s.draws + 1
        result := some (emptyHanded (pollBegun s)) }

/-- A frame that survives every stage is exposed whole and the poll returns FRAME; the trackers it passed have taken its
leading bytes (R272, R268, R270). -/
def Obligations.PollpSurfacesASurvivingFrame : Prop :=
  ∀ (s : State) (e : Entry) (rest : List Entry), ¬ TimerFires s → ¬ Disconnects s → s.Q = e :: rest →
    PassesGate s e → ¬ RepeatsLoop s e → ¬ (s.cfgRedundant = true ∧ RepeatsGeneral s e) →
    exec .pollp s = .next { pollBegun s with
      Q := rest
      gateOpen := true
      T0A := if byteAt e.bytes 0 = 0x0A then tracked s.T0A e.bytes s.params.len0A else s.T0A
      TE6_20 := if byteAt e.bytes 0 = 0xE6 ∧ byteAt e.bytes 2 = 0x20
        then tracked s.TE6_20 e.bytes s.params.lenE6_20 else s.TE6_20
      TE6_03 := if byteAt e.bytes 0 = 0xE6 ∧ byteAt e.bytes 2 = 0x03 ∧ s.params.partitions5to8 = true
        then tracked s.TE6_03 e.bytes s.params.lenE6_03 else s.TE6_03
      TGen := if s.cfgRedundant = true then tracked s.TGen e.bytes s.params.N else s.TGen
      panelOut := e
      result := some (.pollp 1) }

/-- No frame surfaces before the gate opens (R266, R267): a poll returns FRAME only with the oldest queued frame, through
a gate that was open or that this frame opens. -/
def Obligations.FramesSurfaceOnlyThroughTheGate : Prop :=
  ∀ s t : State, ¬ TimerFires s → exec .pollp s = .next t → t.result = some (.pollp 1) →
    t.gateOpen = true ∧ ∃ e rest, s.Q = e :: rest ∧ t.Q = rest ∧ t.panelOut = e ∧ PassesGate s e

/-- POLLM (R280). -/
def Obligations.PollmResult : Prop :=
  ∀ s : State, ¬ TimerFires s →
    (s.captured = true → exec .pollm s = .next { s with
      polled := true, moduleOut := s.slot, captured := false, result := some (.pollm 1) }) ∧
    (s.captured = false → exec .pollm s = .next { s with polled := true, result := some (.pollm 0) })

/-- STATUS returns the status word and changes nothing else (R282, R134). -/
def Obligations.StatusResult : Prop :=
  ∀ s : State, ¬ TimerFires s →
    ∃ w : BitVec 8, exec .status s = .next { s with result := some (.status w) } ∧
      w.getLsbD 0 = s.overflow ∧ w.getLsbD 1 = s.connected ∧ w.getLsbD 2 = s.changed ∧
      (w.getLsbD 3 = true ↔ Ready s) ∧ w.getLsbD 4 = s.writeLow ∧
      w.getLsbD 5 = false ∧ w.getLsbD 6 = false ∧ w.getLsbD 7 = false

/-- ACKOVF clears the overflow flag and touches nothing else (R284). -/
def Obligations.AckovfResult : Prop :=
  ∀ s : State, ¬ TimerFires s → exec .ackovf s = .next { s with overflow := false }

/-- CONFIG m, r sets the switches before the first poll and is refused after it (R290). -/
def Obligations.ConfigResult : Prop :=
  ∀ (s : State) (m r : Bool), ¬ TimerFires s →
    (s.polled = false → exec (.config m r) s = .next { s with cfgModule := m, cfgRedundant := r }) ∧
    (s.polled = true → exec (.config m r) s = .next { s with refusals := s.refusals ++ [.configAfterPoll] })

/-! ## Reset -/

/-- RESET, from every state, the sample instant among them: every field of the block takes its reset value, time and the
refusals are kept (R330). The value of `clk` is left open, and so are those of the model's own stream, result and draws. -/
def Obligations.ResetResult : Prop :=
  ∀ s : State, ∃ (level : Bool) (stream : List Byte) (last : Option OpResult) (count : Nat), exec .reset s = .next
    { params := s.params, pending := stream, result := last, draws := count
      cfgModule := s.params.moduleDefault, cfgRedundant := true, polled := false
      now := s.now, clk := level, lastRise := 0, clockHighTime := 0, sampleDue := none, writeLow := false
      P := emptyBuf s.params.N, M := emptyBuf s.params.N, modActivity := false, modSkipped := false
      T05 := zeroBytes s.params.N, T1B := zeroBytes s.params.N
      Q := [], overflow := false, slot := emptyEntry s.params.N, captured := false
      gateOpen := false, T0A := zeroBytes s.params.N, TE6_20 := zeroBytes s.params.N
      TE6_03 := zeroBytes s.params.N, TGen := zeroBytes s.params.N
      lastGap := 0, connected := false, changed := false
      panelOut := emptyEntry s.params.N, moduleOut := emptyEntry s.params.N
      wstate := .idle, wpass := .plain, wkey := 0, doneAt := 0, lastAlarmDone := none, seq := []
      refusals := s.refusals }

/-- Power-on is RESET at time 0 with no refusal recorded (R331). The initial values of the model's own stream, result and
draws are the model's choice (logs 2, 10, 12), and so is the value both give `clk`, which R51 leaves open (log 11,
DESIGN CHOICE). -/
def Obligations.PowerOnIsResetAtTimeZero : Prop :=
  ∀ s : State, s.now = 0 → s.refusals = [] → s.pending = [] → s.result = none → s.draws = 0 →
    exec .reset s = .next (State.powerOn s.params)

/-! ## Invariants and whole-machine rules -/

/-- The invariant holds after power-on with any valid parameters and any operation stream, the reference ones among
them (R50, R331). -/
def Obligations.InvariantHoldsAtPowerOn : Prop :=
  (∀ (p : Params) (bs : List Byte), p.valid = true → ({ State.powerOn p with pending := bs } : State).Inv) ∧
    State.reset.Inv

/-- Every step keeps the invariant: the bounds of every buffer, counter and queue, times never in the future, an armed
deadline never passed, the line released while the clock is high, a pass only inside its window (R34, R35, R40, R47, R84,
R89, R189, R241). -/
def Obligations.StepKeepsTheInvariant : Prop :=
  ∀ s t : State, s.Inv → step s = .next t → t.Inv

/-- No operation changes the parameters (R33; their place in the state is log 6). That none, RESET among them, changes
the operation stream, which the step alone moves, is the model's choice: the field is log 2 and RESET's keeping it log 18
(both DESIGN CHOICE). -/
def Obligations.OperationsKeepParametersAndStream : Prop :=
  ∀ (i : Instr) (s t : State), exec i s = .next t → t.params = s.params ∧ t.pending = s.pending

/-- The stored flags change only by the operations the table of R48 names, RESET apart. (`writeReady`, the table's one
derived flag, is no field: its value is R223's, in StatusResult.) -/
def Obligations.FlagsChangeOnlyByTheirTable : Prop :=
  ∀ (i : Instr) (s t : State), exec i s = .next t → i ≠ .reset →
    (s.overflow = false → t.overflow = true →
      ∃ d, i = .sample d ∧ Completes s ∧ KeepsFrame d s ∧ s.Q.length = s.params.QCAP) ∧
    (s.overflow = true → t.overflow = false → i = .ackovf) ∧
    (s.captured = false → t.captured = true →
      ∃ d, i = .sample d ∧ Completes s ∧ activityAfter d s = true ∧ skippedAfter s = false) ∧
    (s.captured = true → t.captured = false → i = .pollm) ∧
    (t.connected ≠ s.connected → i = .pollp) ∧ (t.changed ≠ s.changed → i = .pollp) ∧
    (s.modActivity = false → t.modActivity = true → ∃ d, i = .sample d ∧ ModuleCaptured s ∧ (d && !s.writeLow) = false) ∧
    (s.modActivity = true → t.modActivity = false → (∃ d, i = .sample d) ∧ Completes s) ∧
    (s.modSkipped = false → t.modSkipped = true → (∃ d, i = .sample d) ∧ ModuleSkipped s) ∧
    (s.modSkipped = true → t.modSkipped = false → (∃ d, i = .sample d) ∧ Completes s) ∧
    (s.P.overlong = false → t.P.overlong = true → (∃ d, i = .sample d) ∧ s.clk = true ∧ s.params.N ≤ s.P.idx) ∧
    (s.P.overlong = true → t.P.overlong = false → (∃ d, i = .sample d) ∧ Completes s) ∧
    (s.M.overlong = false → t.M.overlong = true → (∃ d, i = .sample d) ∧ ModuleCaptured s ∧ s.params.N ≤ s.M.idx) ∧
    (s.M.overlong = true → t.M.overlong = false → (∃ d, i = .sample d) ∧ Completes s) ∧
    (s.gateOpen = false → t.gateOpen = true → i = .pollp) ∧ (s.gateOpen = true → t.gateOpen = true) ∧
    (s.polled = false → t.polled = true → i = .pollp ∨ i = .pollm) ∧ (s.polled = true → t.polled = true) ∧
    (s.writeLow = false → t.writeLow = true → i = .edge false) ∧
    (s.writeLow = true → t.writeLow = false → ∃ l, i = .edge l)

/-- The queue is a FIFO (R88, R100): it changes only by a completing SAMPLE that appends the completed frame, by a POLLP
that takes the oldest frame, one a call (R265), and by RESET. -/
def Obligations.QueueIsFirstInFirstOut : Prop :=
  ∀ (i : Instr) (s t : State), exec i s = .next t →
    t.Q = s.Q ∨
    (∃ d, i = .sample d ∧ Completes s ∧ t.Q = s.Q ++ [entryOf (panelAfter d s)]) ∨
    (i = .pollp ∧ ∃ e, s.Q = e :: t.Q) ∨
    (i = .reset ∧ t.Q = [])

/-- Each context writes only its own state (R310, R52): the interrupt handlers none of the consumption stage's, the
application's calls none of the capture stage's, its time or its line. That the interrupt handlers also keep `result`
(log 12, DESIGN CHOICE) and `draws` (log 9, DEDUCED) concerns fields of the model's own, of which no rule speaks. -/
def Obligations.ContextsWriteTheirOwnState : Prop :=
  ∀ (i : Instr) (s t : State), exec i s = .next t →
    (i.context = .interrupt →
      t.gateOpen = s.gateOpen ∧ t.T0A = s.T0A ∧ t.TE6_20 = s.TE6_20 ∧ t.TE6_03 = s.TE6_03 ∧ t.TGen = s.TGen ∧
      t.connected = s.connected ∧ t.changed = s.changed ∧ t.panelOut = s.panelOut ∧ t.moduleOut = s.moduleOut ∧
      t.polled = s.polled ∧ t.cfgModule = s.cfgModule ∧ t.cfgRedundant = s.cfgRedundant ∧ t.wkey = s.wkey ∧
      t.seq = s.seq ∧ t.result = s.result ∧ t.draws = s.draws ∧ t.now = s.now) ∧
    (i.context = .application →
      t.now = s.now ∧ t.clk = s.clk ∧ t.lastRise = s.lastRise ∧ t.clockHighTime = s.clockHighTime ∧
      t.sampleDue = s.sampleDue ∧ t.writeLow = s.writeLow ∧ t.P = s.P ∧ t.M = s.M ∧ t.modActivity = s.modActivity ∧
      t.modSkipped = s.modSkipped ∧ t.T05 = s.T05 ∧ t.T1B = s.T1B ∧ t.slot = s.slot ∧ t.lastGap = s.lastGap ∧
      t.wpass = s.wpass ∧ t.doneAt = s.doneAt ∧ t.lastAlarmDone = s.lastAlarmDone)

/-- No operation reads the `overlong` flags (R183): states that differ in nothing else go to states that differ in
nothing else. -/
def Obligations.NothingReadsOverlong : Prop :=
  ∀ (i : Instr) (s s' t t' : State), forgetOverlong s = forgetOverlong s' → exec i s = .next t → exec i s' = .next t' →
    forgetOverlong t = forgetOverlong t'

/-- No operation reads `clk` before an EDGE has written it (R51): while no sample is armed, another value of `clk` changes
nothing in any operation's effect but `clk` itself, and an EDGE forgets it. That RESET forgets it too is the model's choice:
R51 lets a model leave `clk` unwritten at RESET, and this one writes it (log 11, DESIGN CHOICE). -/
def Obligations.NothingReadsClkUnarmed : Prop :=
  ∀ (i : Instr) (s t : State) (level : Bool), s.sampleDue = none → exec i s = .next t →
    ((∃ l, i = .edge l) ∨ i = .reset → exec i { s with clk := level } = .next t) ∧
    ((∀ l, i ≠ .edge l) → i ≠ .reset →
      exec i { s with clk := level } = .next { t with clk := level } ∧ t.sampleDue = none)

/-! ## Whole streams -/

/-- The machine reads any byte sequence as R119 decodes it: it performs the operations before the first refusal, in their
order, records the refusal's reason if there is one, and reads nothing after it. One step an operation, and one more for
the refusal, or for the empty stream, which changes nothing (log 3, DESIGN CHOICE); that what follows a refusal is dropped
from the model's stream is log 4 (DEDUCED from R119), and the form of the stream log 2 (DESIGN CHOICE). -/
def Obligations.RunStopsAtTheFirstRefusal : Prop :=
  ∀ (bs : List Byte) (s : State),
    Sys2Proof.core.run ((decodeStream bs).1.length + 1) ({ s with pending := bs } : State) =
      match execAll (decodeStream bs).1 { s with pending := [] } with
      | .next t => .next { t with refusals := t.refusals ++ reasonsOf (decodeStream bs).2 }
      | .fault r => .fault r
      | .refused r => .refused r
end

