-- ==== Sys2Proof/Laws/State.lean ====
section
/-! SUPPORT. What each shared update of the state leaves in each field, so that no later proof unfolds one. -/

namespace Sys2Proof.Machine

@[simp] theorem refuse_params (r : RefuseReason) (s : State) : (refuse r s).params = s.params := rfl
@[simp] theorem refuse_pending (r : RefuseReason) (s : State) : (refuse r s).pending = s.pending := rfl
@[simp] theorem refuse_result (r : RefuseReason) (s : State) : (refuse r s).result = s.result := rfl
@[simp] theorem refuse_draws (r : RefuseReason) (s : State) : (refuse r s).draws = s.draws := rfl
@[simp] theorem refuse_cfgModule (r : RefuseReason) (s : State) : (refuse r s).cfgModule = s.cfgModule := rfl
@[simp] theorem refuse_cfgRedundant (r : RefuseReason) (s : State) : (refuse r s).cfgRedundant = s.cfgRedundant := rfl
@[simp] theorem refuse_polled (r : RefuseReason) (s : State) : (refuse r s).polled = s.polled := rfl
@[simp] theorem refuse_now (r : RefuseReason) (s : State) : (refuse r s).now = s.now := rfl
@[simp] theorem refuse_clk (r : RefuseReason) (s : State) : (refuse r s).clk = s.clk := rfl
@[simp] theorem refuse_lastRise (r : RefuseReason) (s : State) : (refuse r s).lastRise = s.lastRise := rfl
@[simp] theorem refuse_clockHighTime (r : RefuseReason) (s : State) : (refuse r s).clockHighTime = s.clockHighTime := rfl
@[simp] theorem refuse_sampleDue (r : RefuseReason) (s : State) : (refuse r s).sampleDue = s.sampleDue := rfl
@[simp] theorem refuse_writeLow (r : RefuseReason) (s : State) : (refuse r s).writeLow = s.writeLow := rfl
@[simp] theorem refuse_P (r : RefuseReason) (s : State) : (refuse r s).P = s.P := rfl
@[simp] theorem refuse_M (r : RefuseReason) (s : State) : (refuse r s).M = s.M := rfl
@[simp] theorem refuse_modActivity (r : RefuseReason) (s : State) : (refuse r s).modActivity = s.modActivity := rfl
@[simp] theorem refuse_modSkipped (r : RefuseReason) (s : State) : (refuse r s).modSkipped = s.modSkipped := rfl
@[simp] theorem refuse_T05 (r : RefuseReason) (s : State) : (refuse r s).T05 = s.T05 := rfl
@[simp] theorem refuse_T1B (r : RefuseReason) (s : State) : (refuse r s).T1B = s.T1B := rfl
@[simp] theorem refuse_Q (r : RefuseReason) (s : State) : (refuse r s).Q = s.Q := rfl
@[simp] theorem refuse_overflow (r : RefuseReason) (s : State) : (refuse r s).overflow = s.overflow := rfl
@[simp] theorem refuse_slot (r : RefuseReason) (s : State) : (refuse r s).slot = s.slot := rfl
@[simp] theorem refuse_captured (r : RefuseReason) (s : State) : (refuse r s).captured = s.captured := rfl
@[simp] theorem refuse_gateOpen (r : RefuseReason) (s : State) : (refuse r s).gateOpen = s.gateOpen := rfl
@[simp] theorem refuse_T0A (r : RefuseReason) (s : State) : (refuse r s).T0A = s.T0A := rfl
@[simp] theorem refuse_TE6_20 (r : RefuseReason) (s : State) : (refuse r s).TE6_20 = s.TE6_20 := rfl
@[simp] theorem refuse_TE6_03 (r : RefuseReason) (s : State) : (refuse r s).TE6_03 = s.TE6_03 := rfl
@[simp] theorem refuse_TGen (r : RefuseReason) (s : State) : (refuse r s).TGen = s.TGen := rfl
@[simp] theorem refuse_lastGap (r : RefuseReason) (s : State) : (refuse r s).lastGap = s.lastGap := rfl
@[simp] theorem refuse_connected (r : RefuseReason) (s : State) : (refuse r s).connected = s.connected := rfl
@[simp] theorem refuse_changed (r : RefuseReason) (s : State) : (refuse r s).changed = s.changed := rfl
@[simp] theorem refuse_panelOut (r : RefuseReason) (s : State) : (refuse r s).panelOut = s.panelOut := rfl
@[simp] theorem refuse_moduleOut (r : RefuseReason) (s : State) : (refuse r s).moduleOut = s.moduleOut := rfl
@[simp] theorem refuse_wstate (r : RefuseReason) (s : State) : (refuse r s).wstate = s.wstate := rfl
@[simp] theorem refuse_wpass (r : RefuseReason) (s : State) : (refuse r s).wpass = s.wpass := rfl
@[simp] theorem refuse_wkey (r : RefuseReason) (s : State) : (refuse r s).wkey = s.wkey := rfl
@[simp] theorem refuse_doneAt (r : RefuseReason) (s : State) : (refuse r s).doneAt = s.doneAt := rfl
@[simp] theorem refuse_lastAlarmDone (r : RefuseReason) (s : State) : (refuse r s).lastAlarmDone = s.lastAlarmDone := rfl
@[simp] theorem refuse_seq (r : RefuseReason) (s : State) : (refuse r s).seq = s.seq := rfl
@[simp] theorem refuse_refusals (r : RefuseReason) (s : State) : (refuse r s).refusals = s.refusals ++ [r] := rfl

@[simp] theorem returns_params (r : OpResult) (s : State) : (returns r s).params = s.params := rfl
@[simp] theorem returns_pending (r : OpResult) (s : State) : (returns r s).pending = s.pending := rfl
@[simp] theorem returns_result (r : OpResult) (s : State) : (returns r s).result = some r := rfl
@[simp] theorem returns_draws (r : OpResult) (s : State) : (returns r s).draws = s.draws := rfl
@[simp] theorem returns_cfgModule (r : OpResult) (s : State) : (returns r s).cfgModule = s.cfgModule := rfl
@[simp] theorem returns_cfgRedundant (r : OpResult) (s : State) : (returns r s).cfgRedundant = s.cfgRedundant := rfl
@[simp] theorem returns_polled (r : OpResult) (s : State) : (returns r s).polled = s.polled := rfl
@[simp] theorem returns_now (r : OpResult) (s : State) : (returns r s).now = s.now := rfl
@[simp] theorem returns_clk (r : OpResult) (s : State) : (returns r s).clk = s.clk := rfl
@[simp] theorem returns_lastRise (r : OpResult) (s : State) : (returns r s).lastRise = s.lastRise := rfl
@[simp] theorem returns_clockHighTime (r : OpResult) (s : State) : (returns r s).clockHighTime = s.clockHighTime := rfl
@[simp] theorem returns_sampleDue (r : OpResult) (s : State) : (returns r s).sampleDue = s.sampleDue := rfl
@[simp] theorem returns_writeLow (r : OpResult) (s : State) : (returns r s).writeLow = s.writeLow := rfl
@[simp] theorem returns_P (r : OpResult) (s : State) : (returns r s).P = s.P := rfl
@[simp] theorem returns_M (r : OpResult) (s : State) : (returns r s).M = s.M := rfl
@[simp] theorem returns_modActivity (r : OpResult) (s : State) : (returns r s).modActivity = s.modActivity := rfl
@[simp] theorem returns_modSkipped (r : OpResult) (s : State) : (returns r s).modSkipped = s.modSkipped := rfl
@[simp] theorem returns_T05 (r : OpResult) (s : State) : (returns r s).T05 = s.T05 := rfl
@[simp] theorem returns_T1B (r : OpResult) (s : State) : (returns r s).T1B = s.T1B := rfl
@[simp] theorem returns_Q (r : OpResult) (s : State) : (returns r s).Q = s.Q := rfl
@[simp] theorem returns_overflow (r : OpResult) (s : State) : (returns r s).overflow = s.overflow := rfl
@[simp] theorem returns_slot (r : OpResult) (s : State) : (returns r s).slot = s.slot := rfl
@[simp] theorem returns_captured (r : OpResult) (s : State) : (returns r s).captured = s.captured := rfl
@[simp] theorem returns_gateOpen (r : OpResult) (s : State) : (returns r s).gateOpen = s.gateOpen := rfl
@[simp] theorem returns_T0A (r : OpResult) (s : State) : (returns r s).T0A = s.T0A := rfl
@[simp] theorem returns_TE6_20 (r : OpResult) (s : State) : (returns r s).TE6_20 = s.TE6_20 := rfl
@[simp] theorem returns_TE6_03 (r : OpResult) (s : State) : (returns r s).TE6_03 = s.TE6_03 := rfl
@[simp] theorem returns_TGen (r : OpResult) (s : State) : (returns r s).TGen = s.TGen := rfl
@[simp] theorem returns_lastGap (r : OpResult) (s : State) : (returns r s).lastGap = s.lastGap := rfl
@[simp] theorem returns_connected (r : OpResult) (s : State) : (returns r s).connected = s.connected := rfl
@[simp] theorem returns_changed (r : OpResult) (s : State) : (returns r s).changed = s.changed := rfl
@[simp] theorem returns_panelOut (r : OpResult) (s : State) : (returns r s).panelOut = s.panelOut := rfl
@[simp] theorem returns_moduleOut (r : OpResult) (s : State) : (returns r s).moduleOut = s.moduleOut := rfl
@[simp] theorem returns_wstate (r : OpResult) (s : State) : (returns r s).wstate = s.wstate := rfl
@[simp] theorem returns_wpass (r : OpResult) (s : State) : (returns r s).wpass = s.wpass := rfl
@[simp] theorem returns_wkey (r : OpResult) (s : State) : (returns r s).wkey = s.wkey := rfl
@[simp] theorem returns_doneAt (r : OpResult) (s : State) : (returns r s).doneAt = s.doneAt := rfl
@[simp] theorem returns_lastAlarmDone (r : OpResult) (s : State) : (returns r s).lastAlarmDone = s.lastAlarmDone := rfl
@[simp] theorem returns_seq (r : OpResult) (s : State) : (returns r s).seq = s.seq := rfl
@[simp] theorem returns_refusals (r : OpResult) (s : State) : (returns r s).refusals = s.refusals := rfl

@[simp] theorem armTimer_params (s : State) : (armTimer s).params = s.params := rfl
@[simp] theorem armTimer_pending (s : State) : (armTimer s).pending = s.pending := rfl
@[simp] theorem armTimer_result (s : State) : (armTimer s).result = s.result := rfl
@[simp] theorem armTimer_draws (s : State) : (armTimer s).draws = s.draws := rfl
@[simp] theorem armTimer_cfgModule (s : State) : (armTimer s).cfgModule = s.cfgModule := rfl
@[simp] theorem armTimer_cfgRedundant (s : State) : (armTimer s).cfgRedundant = s.cfgRedundant := rfl
@[simp] theorem armTimer_polled (s : State) : (armTimer s).polled = s.polled := rfl
@[simp] theorem armTimer_now (s : State) : (armTimer s).now = s.now := rfl
@[simp] theorem armTimer_clk (s : State) : (armTimer s).clk = s.clk := rfl
@[simp] theorem armTimer_lastRise (s : State) : (armTimer s).lastRise = s.lastRise := rfl
@[simp] theorem armTimer_clockHighTime (s : State) : (armTimer s).clockHighTime = s.clockHighTime := rfl
@[simp] theorem armTimer_sampleDue (s : State) : (armTimer s).sampleDue = some (s.now + s.params.sampleDelayUs) := rfl
@[simp] theorem armTimer_writeLow (s : State) : (armTimer s).writeLow = s.writeLow := rfl
@[simp] theorem armTimer_P (s : State) : (armTimer s).P = s.P := rfl
@[simp] theorem armTimer_M (s : State) : (armTimer s).M = s.M := rfl
@[simp] theorem armTimer_modActivity (s : State) : (armTimer s).modActivity = s.modActivity := rfl
@[simp] theorem armTimer_modSkipped (s : State) : (armTimer s).modSkipped = s.modSkipped := rfl
@[simp] theorem armTimer_T05 (s : State) : (armTimer s).T05 = s.T05 := rfl
@[simp] theorem armTimer_T1B (s : State) : (armTimer s).T1B = s.T1B := rfl
@[simp] theorem armTimer_Q (s : State) : (armTimer s).Q = s.Q := rfl
@[simp] theorem armTimer_overflow (s : State) : (armTimer s).overflow = s.overflow := rfl
@[simp] theorem armTimer_slot (s : State) : (armTimer s).slot = s.slot := rfl
@[simp] theorem armTimer_captured (s : State) : (armTimer s).captured = s.captured := rfl
@[simp] theorem armTimer_gateOpen (s : State) : (armTimer s).gateOpen = s.gateOpen := rfl
@[simp] theorem armTimer_T0A (s : State) : (armTimer s).T0A = s.T0A := rfl
@[simp] theorem armTimer_TE6_20 (s : State) : (armTimer s).TE6_20 = s.TE6_20 := rfl
@[simp] theorem armTimer_TE6_03 (s : State) : (armTimer s).TE6_03 = s.TE6_03 := rfl
@[simp] theorem armTimer_TGen (s : State) : (armTimer s).TGen = s.TGen := rfl
@[simp] theorem armTimer_lastGap (s : State) : (armTimer s).lastGap = s.lastGap := rfl
@[simp] theorem armTimer_connected (s : State) : (armTimer s).connected = s.connected := rfl
@[simp] theorem armTimer_changed (s : State) : (armTimer s).changed = s.changed := rfl
@[simp] theorem armTimer_panelOut (s : State) : (armTimer s).panelOut = s.panelOut := rfl
@[simp] theorem armTimer_moduleOut (s : State) : (armTimer s).moduleOut = s.moduleOut := rfl
@[simp] theorem armTimer_wstate (s : State) : (armTimer s).wstate = s.wstate := rfl
@[simp] theorem armTimer_wpass (s : State) : (armTimer s).wpass = s.wpass := rfl
@[simp] theorem armTimer_wkey (s : State) : (armTimer s).wkey = s.wkey := rfl
@[simp] theorem armTimer_doneAt (s : State) : (armTimer s).doneAt = s.doneAt := rfl
@[simp] theorem armTimer_lastAlarmDone (s : State) : (armTimer s).lastAlarmDone = s.lastAlarmDone := rfl
@[simp] theorem armTimer_seq (s : State) : (armTimer s).seq = s.seq := rfl
@[simp] theorem armTimer_refusals (s : State) : (armTimer s).refusals = s.refusals := rfl

@[simp] theorem enqueue_params (e : Entry) (s : State) : (enqueue e s).params = s.params := rfl
@[simp] theorem enqueue_pending (e : Entry) (s : State) : (enqueue e s).pending = s.pending := rfl
@[simp] theorem enqueue_result (e : Entry) (s : State) : (enqueue e s).result = s.result := rfl
@[simp] theorem enqueue_draws (e : Entry) (s : State) : (enqueue e s).draws = s.draws := rfl
@[simp] theorem enqueue_cfgModule (e : Entry) (s : State) : (enqueue e s).cfgModule = s.cfgModule := rfl
@[simp] theorem enqueue_cfgRedundant (e : Entry) (s : State) : (enqueue e s).cfgRedundant = s.cfgRedundant := rfl
@[simp] theorem enqueue_polled (e : Entry) (s : State) : (enqueue e s).polled = s.polled := rfl
@[simp] theorem enqueue_now (e : Entry) (s : State) : (enqueue e s).now = s.now := rfl
@[simp] theorem enqueue_clk (e : Entry) (s : State) : (enqueue e s).clk = s.clk := rfl
@[simp] theorem enqueue_lastRise (e : Entry) (s : State) : (enqueue e s).lastRise = s.lastRise := rfl
@[simp] theorem enqueue_clockHighTime (e : Entry) (s : State) : (enqueue e s).clockHighTime = s.clockHighTime := rfl
@[simp] theorem enqueue_sampleDue (e : Entry) (s : State) : (enqueue e s).sampleDue = s.sampleDue := rfl
@[simp] theorem enqueue_writeLow (e : Entry) (s : State) : (enqueue e s).writeLow = s.writeLow := rfl
@[simp] theorem enqueue_P (e : Entry) (s : State) : (enqueue e s).P = s.P := rfl
@[simp] theorem enqueue_M (e : Entry) (s : State) : (enqueue e s).M = s.M := rfl
@[simp] theorem enqueue_modActivity (e : Entry) (s : State) : (enqueue e s).modActivity = s.modActivity := rfl
@[simp] theorem enqueue_modSkipped (e : Entry) (s : State) : (enqueue e s).modSkipped = s.modSkipped := rfl
@[simp] theorem enqueue_T05 (e : Entry) (s : State) : (enqueue e s).T05 = s.T05 := rfl
@[simp] theorem enqueue_T1B (e : Entry) (s : State) : (enqueue e s).T1B = s.T1B := rfl
@[simp] theorem enqueue_Q (e : Entry) (s : State) : (enqueue e s).Q = s.Q ++ [e] := rfl
@[simp] theorem enqueue_overflow (e : Entry) (s : State) : (enqueue e s).overflow = s.overflow := rfl
@[simp] theorem enqueue_slot (e : Entry) (s : State) : (enqueue e s).slot = s.slot := rfl
@[simp] theorem enqueue_captured (e : Entry) (s : State) : (enqueue e s).captured = s.captured := rfl
@[simp] theorem enqueue_gateOpen (e : Entry) (s : State) : (enqueue e s).gateOpen = s.gateOpen := rfl
@[simp] theorem enqueue_T0A (e : Entry) (s : State) : (enqueue e s).T0A = s.T0A := rfl
@[simp] theorem enqueue_TE6_20 (e : Entry) (s : State) : (enqueue e s).TE6_20 = s.TE6_20 := rfl
@[simp] theorem enqueue_TE6_03 (e : Entry) (s : State) : (enqueue e s).TE6_03 = s.TE6_03 := rfl
@[simp] theorem enqueue_TGen (e : Entry) (s : State) : (enqueue e s).TGen = s.TGen := rfl
@[simp] theorem enqueue_lastGap (e : Entry) (s : State) : (enqueue e s).lastGap = s.lastGap := rfl
@[simp] theorem enqueue_connected (e : Entry) (s : State) : (enqueue e s).connected = s.connected := rfl
@[simp] theorem enqueue_changed (e : Entry) (s : State) : (enqueue e s).changed = s.changed := rfl
@[simp] theorem enqueue_panelOut (e : Entry) (s : State) : (enqueue e s).panelOut = s.panelOut := rfl
@[simp] theorem enqueue_moduleOut (e : Entry) (s : State) : (enqueue e s).moduleOut = s.moduleOut := rfl
@[simp] theorem enqueue_wstate (e : Entry) (s : State) : (enqueue e s).wstate = s.wstate := rfl
@[simp] theorem enqueue_wpass (e : Entry) (s : State) : (enqueue e s).wpass = s.wpass := rfl
@[simp] theorem enqueue_wkey (e : Entry) (s : State) : (enqueue e s).wkey = s.wkey := rfl
@[simp] theorem enqueue_doneAt (e : Entry) (s : State) : (enqueue e s).doneAt = s.doneAt := rfl
@[simp] theorem enqueue_lastAlarmDone (e : Entry) (s : State) : (enqueue e s).lastAlarmDone = s.lastAlarmDone := rfl
@[simp] theorem enqueue_seq (e : Entry) (s : State) : (enqueue e s).seq = s.seq := rfl
@[simp] theorem enqueue_refusals (e : Entry) (s : State) : (enqueue e s).refusals = s.refusals := rfl

@[simp] theorem withPending_params (bs : List Byte) (s : State) : (withPending bs s).params = s.params := rfl
@[simp] theorem withPending_pending (bs : List Byte) (s : State) : (withPending bs s).pending = bs := rfl
@[simp] theorem withPending_result (bs : List Byte) (s : State) : (withPending bs s).result = s.result := rfl
@[simp] theorem withPending_draws (bs : List Byte) (s : State) : (withPending bs s).draws = s.draws := rfl
@[simp] theorem withPending_cfgModule (bs : List Byte) (s : State) : (withPending bs s).cfgModule = s.cfgModule := rfl
@[simp] theorem withPending_cfgRedundant (bs : List Byte) (s : State) : (withPending bs s).cfgRedundant = s.cfgRedundant := rfl
@[simp] theorem withPending_polled (bs : List Byte) (s : State) : (withPending bs s).polled = s.polled := rfl
@[simp] theorem withPending_now (bs : List Byte) (s : State) : (withPending bs s).now = s.now := rfl
@[simp] theorem withPending_clk (bs : List Byte) (s : State) : (withPending bs s).clk = s.clk := rfl
@[simp] theorem withPending_lastRise (bs : List Byte) (s : State) : (withPending bs s).lastRise = s.lastRise := rfl
@[simp] theorem withPending_clockHighTime (bs : List Byte) (s : State) : (withPending bs s).clockHighTime = s.clockHighTime := rfl
@[simp] theorem withPending_sampleDue (bs : List Byte) (s : State) : (withPending bs s).sampleDue = s.sampleDue := rfl
@[simp] theorem withPending_writeLow (bs : List Byte) (s : State) : (withPending bs s).writeLow = s.writeLow := rfl
@[simp] theorem withPending_P (bs : List Byte) (s : State) : (withPending bs s).P = s.P := rfl
@[simp] theorem withPending_M (bs : List Byte) (s : State) : (withPending bs s).M = s.M := rfl
@[simp] theorem withPending_modActivity (bs : List Byte) (s : State) : (withPending bs s).modActivity = s.modActivity := rfl
@[simp] theorem withPending_modSkipped (bs : List Byte) (s : State) : (withPending bs s).modSkipped = s.modSkipped := rfl
@[simp] theorem withPending_T05 (bs : List Byte) (s : State) : (withPending bs s).T05 = s.T05 := rfl
@[simp] theorem withPending_T1B (bs : List Byte) (s : State) : (withPending bs s).T1B = s.T1B := rfl
@[simp] theorem withPending_Q (bs : List Byte) (s : State) : (withPending bs s).Q = s.Q := rfl
@[simp] theorem withPending_overflow (bs : List Byte) (s : State) : (withPending bs s).overflow = s.overflow := rfl
@[simp] theorem withPending_slot (bs : List Byte) (s : State) : (withPending bs s).slot = s.slot := rfl
@[simp] theorem withPending_captured (bs : List Byte) (s : State) : (withPending bs s).captured = s.captured := rfl
@[simp] theorem withPending_gateOpen (bs : List Byte) (s : State) : (withPending bs s).gateOpen = s.gateOpen := rfl
@[simp] theorem withPending_T0A (bs : List Byte) (s : State) : (withPending bs s).T0A = s.T0A := rfl
@[simp] theorem withPending_TE6_20 (bs : List Byte) (s : State) : (withPending bs s).TE6_20 = s.TE6_20 := rfl
@[simp] theorem withPending_TE6_03 (bs : List Byte) (s : State) : (withPending bs s).TE6_03 = s.TE6_03 := rfl
@[simp] theorem withPending_TGen (bs : List Byte) (s : State) : (withPending bs s).TGen = s.TGen := rfl
@[simp] theorem withPending_lastGap (bs : List Byte) (s : State) : (withPending bs s).lastGap = s.lastGap := rfl
@[simp] theorem withPending_connected (bs : List Byte) (s : State) : (withPending bs s).connected = s.connected := rfl
@[simp] theorem withPending_changed (bs : List Byte) (s : State) : (withPending bs s).changed = s.changed := rfl
@[simp] theorem withPending_panelOut (bs : List Byte) (s : State) : (withPending bs s).panelOut = s.panelOut := rfl
@[simp] theorem withPending_moduleOut (bs : List Byte) (s : State) : (withPending bs s).moduleOut = s.moduleOut := rfl
@[simp] theorem withPending_wstate (bs : List Byte) (s : State) : (withPending bs s).wstate = s.wstate := rfl
@[simp] theorem withPending_wpass (bs : List Byte) (s : State) : (withPending bs s).wpass = s.wpass := rfl
@[simp] theorem withPending_wkey (bs : List Byte) (s : State) : (withPending bs s).wkey = s.wkey := rfl
@[simp] theorem withPending_doneAt (bs : List Byte) (s : State) : (withPending bs s).doneAt = s.doneAt := rfl
@[simp] theorem withPending_lastAlarmDone (bs : List Byte) (s : State) : (withPending bs s).lastAlarmDone = s.lastAlarmDone := rfl
@[simp] theorem withPending_seq (bs : List Byte) (s : State) : (withPending bs s).seq = s.seq := rfl
@[simp] theorem withPending_refusals (bs : List Byte) (s : State) : (withPending bs s).refusals = s.refusals := rfl

end Sys2Proof.Machine
end

