-- ==== Sys2Proof/Laws/Ops.lean ====
section
/-! SUPPORT. What each shared operation can do, once. -/

namespace Sys2Proof.Machine

theorem atDeadline_iff (s : State) : atDeadline s = true ↔ TimerFires s := by
  simp [atDeadline, TimerFires]

/-- At the sample instant an operation is refused (R159). -/
theorem whenAdmitted_fires {op : State → State} {s : State} (h : TimerFires s) : whenAdmitted op s = refuse .deadline s := by
  simp [whenAdmitted, (atDeadline_iff s).2 h]

/-- At every other instant it is performed. -/
theorem whenAdmitted_clear {op : State → State} {s : State} (h : ¬ TimerFires s) : whenAdmitted op s = op s := by
  have : atDeadline s = false := by
    rw [← Bool.not_eq_true]
    exact fun h' => h ((atDeadline_iff s).1 h')
  simp [whenAdmitted, this]

theorem whenAdmitted_cases (op : State → State) (s : State) :
    (TimerFires s ∧ whenAdmitted op s = refuse .deadline s) ∨ (¬ TimerFires s ∧ whenAdmitted op s = op s) := by
  by_cases h : TimerFires s
  · exact .inl ⟨h, whenAdmitted_fires h⟩
  · exact .inr ⟨h, whenAdmitted_clear h⟩

/-- SAMPLE's admission (R168). -/
theorem admitSample_cases (op : State → State) (s : State) :
    (s.sampleDue = none ∧ admitSample op s = refuse .noDeadline s) ∨
    (∃ t, s.sampleDue = some t ∧ t ≠ s.now ∧ admitSample op s = refuse .early s) ∨
    (TimerFires s ∧ admitSample op s = op s) := by
  unfold admitSample
  split
  · rename_i h; exact .inl ⟨h, rfl⟩
  · rename_i t h
    by_cases e : t = s.now
    · exact .inr (.inr ⟨by simp [TimerFires, h, e], by simp [e]⟩)
    · exact .inr (.inl ⟨t, h, e, by simp [e]⟩)

theorem admitSample_fires {op : State → State} {s : State} (h : TimerFires s) : admitSample op s = op s := by
  rcases admitSample_cases op s with ⟨h', _⟩ | ⟨t, h', ne, _⟩ | ⟨_, e⟩
  · simp [TimerFires, h'] at h
  · simp [TimerFires, h', ne] at h
  · exact e

/-- WAIT's own admission and effect (R166). -/
theorem passTime_cases (delta : Nat) (s : State) :
    (∃ t, s.sampleDue = some t ∧ t < s.now + delta ∧ passTime delta s = refuse .deadlineCrossed s) ∨
    ((∀ t ∈ s.sampleDue, s.now + delta ≤ t) ∧ passTime delta s = { s with now := s.now + delta }) := by
  unfold passTime
  split
  · rename_i t h
    by_cases c : t < s.now + delta
    · exact .inl ⟨t, h, c, by simp [c]⟩
    · exact .inr ⟨by simp [h]; omega, by simp [c]⟩
  · rename_i h
    exact .inr ⟨by simp [h], rfl⟩

theorem isDuplicate_iff (T B : List Byte) (L : Nat) : isDuplicate T B L = true ↔ T.take L = B.take L := by
  simp [isDuplicate]

/-- A tracker after a comparison holds the frame's leading bytes, whichever way the comparison went (R93). -/
theorem remember_eq (T B : List Byte) (L : Nat) : remember T B L = tracked T B L := by
  unfold remember tracked
  split
  · rename_i h
    rw [← (isDuplicate_iff T B L).1 h, List.take_append_drop]
  · rfl

theorem length_tracked {T B : List Byte} {n : Nat} (L : Nat) (hT : T.length = n) (hB : B.length = n) :
    (tracked T B L).length = n := by
  simp [tracked, hT, hB]; omega

/-- Comparing all the bytes of two buffers of one length. -/
theorem tracked_all {T B : List Byte} {n : Nat} (hT : T.length = n) (hB : B.length = n) : tracked T B n = B := by
  unfold tracked
  rw [List.take_of_length_le (by omega), List.drop_eq_nil_of_le (by omega), List.append_nil]

theorem ms_eq (t : Nat) : ms t = t / 1000 := rfl

theorem writeReady_iff (s : State) : writeReady s = true ↔ Ready s := by
  simp only [writeReady, Bool.and_eq_true, Bool.or_eq_true, beq_iff_eq, decide_eq_true_eq]
  exact Iff.rfl

theorem alarmOK_iff (s : State) (k : Key) : alarmOK s k = true ↔ FloorElapsed s k := by
  unfold alarmOK FloorElapsed
  cases h : s.lastAlarmDone <;> simp
  exact Iff.rfl

theorem busAlive_eq (s : State) : busAlive s = decide (s.now / 1000 - s.lastGap ≤ s.params.connectMs) := rfl

/-- A drawn Entry is within the bounds of an Entry (R273, R35). -/
theorem drawnEntry_wf (p : Params) (k : Nat) : (drawnEntry p k).WF p.N where
  length_eq := by simp [drawnEntry]
  bitCount_le := Nat.lt_succ_iff.1 (Nat.mod_lt _ (Nat.succ_pos _))
  byteCount_le := Nat.lt_succ_iff.1 (Nat.mod_lt _ (Nat.succ_pos _))

/-- What the stream offers next. -/
theorem fetch_of_decode {s : State} {i : Instr} {rest : List Byte} (h : decode s.pending = .ok (i, rest)) :
    fetch s = .operation i rest := by
  simp [fetch, h]

end Sys2Proof.Machine
end

