-- ==== Sys2Proof/Laws/Injector.lean ====
section
/-! SUPPORT. What the write injector's parts can do. -/

namespace Sys2Proof.Machine

theorem pullsLow_eq (p : Params) (pass : WPass) (k : Key) (i : Nat) : pullsLow p pass k i = !sentBit p pass k i := by
  cases pass <;> rfl

theorem passWidth_eq (pass : WPass) : passWidth pass = sentWidth pass := by
  cases pass <;> rfl

theorem windowStarts_iff (s : State) :
    windowStarts s = true ↔ (s.wstate = .staged ∨ s.wstate = .armed2) ∧ WindowOpens s := by
  simp [windowStarts, WindowOpens, and_assoc]

/-- The four fields a pass writes when it ends (R243, R245). -/
theorem finishKey_eq (s : State) :
    finishKey s = { s with
      wstate := .drain
      doneAt := s.now / 1000
      lastAlarmDone := if s.wkey ∈ s.params.alarmKeys then some (s.now / 1000) else s.lastAlarmDone } := by
  by_cases h : s.wkey ∈ s.params.alarmKeys <;> simp [finishKey, ms, h]

/-- A falling edge leaves all but five fields as they were (R241, R243). -/
theorem injectorFalling_frame (s : State) :
    injectorFalling s = { s with
      writeLow := (injectorFalling s).writeLow
      wpass := (injectorFalling s).wpass
      wstate := (injectorFalling s).wstate
      doneAt := (injectorFalling s).doneAt
      lastAlarmDone := (injectorFalling s).lastAlarmDone } := by
  unfold injectorFalling advanceWindow passEnd driveBit startWindow finishKey
  repeat' split
  all_goals rfl

/-- The injector has nothing to do at this falling edge (R241). -/
abbrev InjectorQuiet (s : State) : Prop :=
  s.params.writeEnabled = false ∨
    (s.wstate ≠ .active ∧ ¬ ((s.wstate = .staged ∨ s.wstate = .armed2) ∧ WindowOpens s))

theorem injectorFalling_quiet {s : State} (h : InjectorQuiet s) : injectorFalling s = s := by
  rcases h with h | ⟨ha, hw⟩
  · simp [injectorFalling, h]
  · have : windowStarts s = false := by
      rw [← Bool.not_eq_true, windowStarts_iff]; exact hw
    simp [injectorFalling, startWindow, this, advanceWindow, ha]

/-- A pass in progress (R241, R243). -/
theorem injectorFalling_active {s : State} (he : s.params.writeEnabled = true) (ha : s.wstate = .active) :
    injectorFalling s =
      if passWidth s.wpass ≤ windowPosition s then passEnd (driveBit (windowPosition s) s)
      else driveBit (windowPosition s) s := by
  have : windowStarts s = false := by simp [windowStarts, ha]
  simp [injectorFalling, he, startWindow, this, advanceWindow, ha]

/-- The start of a pass (R241, R242): the first position is driven, and no window is one position wide. -/
theorem injectorFalling_start {s : State} (he : s.params.writeEnabled = true)
    (hw : s.wstate = .staged ∨ s.wstate = .armed2) (ho : WindowOpens s) :
    injectorFalling s = { s with
      wpass := startPass s.wstate s.wkey
      wstate := .active
      writeLow := pullsLow s.params (startPass s.wstate s.wkey) s.wkey 1 } := by
  have hs : windowStarts s = true := (windowStarts_iff s).2 ⟨hw, ho⟩
  have hb : s.P.bits = s.params.wstart := ho.1
  have w : ∀ pass, ¬ passWidth pass ≤ 1 ∧ 1 ≤ passWidth pass := by intro pass; cases pass <;> decide
  simp [injectorFalling, he, startWindow, hs, advanceWindow, windowPosition, hb, driveBit, w]

/-- InjectorGap reads and writes only injector state (R203, R245). -/
theorem injectorGap_frame (s : State) :
    injectorGap s = { s with
      wstate := (injectorGap s).wstate
      doneAt := (injectorGap s).doneAt
      lastAlarmDone := (injectorGap s).lastAlarmDone } := by
  unfold injectorGap finishKey
  repeat' split
  all_goals rfl

/-- What SeqAdvance can do (R235). -/
theorem seqAdvance_cases (s : State) :
    (∃ k ks, s.seq = k :: ks ∧ Ready s ∧ FloorElapsed s k ∧
      seqAdvance s = { s with wkey := k, seq := ks, wstate := .staged }) ∨
    ((∀ k, ¬ Stages s k) ∧ seqAdvance s = s) := by
  unfold seqAdvance
  split
  · rename_i h
    exact .inr ⟨by simp [Stages, h], rfl⟩
  · rename_i k ks h
    by_cases c : Ready s ∧ FloorElapsed s k
    · refine .inl ⟨k, ks, h, c.1, c.2, ?_⟩
      simp [(writeReady_iff s).2 c.1, (alarmOK_iff s k).2 c.2]
    · refine .inr ⟨?_, ?_⟩
      · rintro k' ⟨hk, hr, hf⟩
        simp only [h, List.head?_cons, Option.some.injEq] at hk
        subst hk
        exact c ⟨hr, hf⟩
      · have : (writeReady s && alarmOK s k) = false := by
          rw [← Bool.not_eq_true, Bool.and_eq_true, writeReady_iff, alarmOK_iff]
          exact c
        simp [this]

/-- SeqAdvance writes at most three fields (R235). -/
theorem seqAdvance_frame (s : State) :
    seqAdvance s = { s with
      wkey := (seqAdvance s).wkey
      seq := (seqAdvance s).seq
      wstate := (seqAdvance s).wstate } := by
  unfold seqAdvance
  repeat' split
  all_goals rfl

/-- WRKEY's request where it is honoured (R230). -/
theorem writeKey_accepts {k : KeyCode} {s : State} (h : k.toNat < 16) (hr : Ready s) (hf : FloorElapsed s ⟨k.toNat, h⟩) :
    writeKey k s = { s with seq := [], wkey := ⟨k.toNat, h⟩, wstate := .staged } := by
  have he := hr.1
  simp [writeKey, he, validKey, h, (writeReady_iff s).2 hr, (alarmOK_iff s _).2 hf]

/-- WRKEY's request where it is ignored (R231). -/
theorem writeKey_ignores {k : KeyCode} {s : State}
    (h : ¬ ∃ h : k.toNat < 16, Ready s ∧ FloorElapsed s ⟨k.toNat, h⟩) : writeKey k s = s := by
  unfold writeKey validKey
  split
  · split
    · rfl
    · rename_i key hk
      split at hk
      · rename_i hlt
        simp only [Option.some.injEq] at hk
        subst hk
        have : (writeReady s && alarmOK s ⟨k.toNat, hlt⟩) = false := by
          rw [← Bool.not_eq_true, Bool.and_eq_true, writeReady_iff, alarmOK_iff]
          exact fun c => h ⟨hlt, c.1, c.2⟩
        simp [this]
      · cases hk
  · rfl

/-- WRKEY and WRSEQ write at most three fields (R230, R233). -/
theorem writeKey_frame (k : KeyCode) (s : State) :
    writeKey k s = { s with
      wkey := (writeKey k s).wkey
      seq := (writeKey k s).seq
      wstate := (writeKey k s).wstate } := by
  unfold writeKey
  repeat' split
  all_goals rfl

theorem writeSequence_frame (ks : List KeyCode) (s : State) :
    writeSequence ks s = { s with
      wkey := (writeSequence ks s).wkey
      seq := (writeSequence ks s).seq
      wstate := (writeSequence ks s).wstate } := by
  unfold writeSequence seqAdvance
  repeat' split
  all_goals rfl

end Sys2Proof.Machine
end

