-- ==== Sys2Proof/Laws/Capture.lean ====
section
/-! SUPPORT. What the framer, the half-cycle demux and the completion sequence can do. -/

namespace Sys2Proof.Machine

/-- The byte a shift gives: twice the old value and the new bit, modulo 256 (R9). -/
theorem shiftIn_toNat (v : Byte) (b : Bool) : (shiftIn v b).toNat = (2 * v.toNat + b.toNat) % 256 := by
  revert v b; decide

/-- The bits of a shifted byte: the new bit at 0, the earlier ones one place up (R83). -/
theorem shiftIn_getLsbD (v : Byte) (b : Bool) (j : Nat) (h : j < 8) :
    (shiftIn v b).getLsbD j = if j = 0 then b else v.getLsbD (j - 1) := by
  have all : ∀ (v : Byte) (b : Bool) (j : Fin 8),
      (shiftIn v b).getLsbD j.val = if j.val = 0 then b else v.getLsbD (j.val - 1) := by decide
  exact all v b ⟨j, h⟩

theorem byteAt_set_self {bs : List Byte} {i : Nat} (v : Byte) (h : i < bs.length) : byteAt (bs.set i v) i = v := by
  simp [byteAt, h]

theorem byteAt_set_ne {bs : List Byte} {i j : Nat} (v : Byte) (h : i ≠ j) : byteAt (bs.set i v) j = byteAt bs j := by
  simp [byteAt, List.getElem?_set_ne h]

theorem byteAt_zeroBytes (n i : Nat) : byteAt (zeroBytes n) i = 0 := by
  unfold byteAt zeroBytes
  rw [List.getD_eq_getElem?_getD, List.getElem?_replicate]
  split <;> rfl

/-- What CaptureBit can do (R181 to R183). -/
theorem captureBit_cases (n : Nat) (b : Bool) (B : FrameBuf) :
    (n ≤ B.idx ∧ captureBit n b B = { B with overlong := true }) ∨
    (B.idx < n ∧ ∃ idx sub,
      captureBit n b B = { B with
        bytes := B.bytes.set B.idx (shiftIn (byteAt B.bytes B.idx) b)
        bits := B.bits + 1
        idx := idx
        sub := sub } ∧
      ((B.idx = 1 ∧ idx = 2 ∧ sub = 0) ∨
        (B.idx ≠ 1 ∧ B.sub = 7 ∧ idx = B.idx + 1 ∧ sub = 0) ∨
        (B.idx ≠ 1 ∧ B.sub ≠ 7 ∧ idx = B.idx ∧ sub = B.sub + 1))) := by
  unfold captureBit
  by_cases h : n ≤ B.idx
  · exact .inl ⟨h, by simp [h]⟩
  · refine .inr ⟨by omega, ?_⟩
    by_cases h1 : B.idx = 1
    · exact ⟨2, 0, by rw [if_neg h]; simp [h1], .inl ⟨h1, rfl, rfl⟩⟩
    · by_cases h7 : B.sub = 7
      · exact ⟨B.idx + 1, 0, by simp [h, h1, h7], .inr (.inl ⟨h1, h7, rfl, rfl⟩)⟩
      · exact ⟨B.idx, B.sub + 1, by simp [h, h1, h7], .inr (.inr ⟨h1, h7, rfl, rfl⟩)⟩

/-- Bits never leave a frame under construction. -/
theorem captureBit_bits_le (n : Nat) (b : Bool) (B : FrameBuf) : B.bits ≤ (captureBit n b B).bits := by
  rcases captureBit_cases n b B with ⟨_, e⟩ | ⟨_, idx, sub, e, _⟩ <;> simp [e]

/-- The empty buffer is well formed. -/
theorem emptyBuf_wf (n : Nat) : (emptyBuf n).WF n where
  length_eq := by simp [emptyBuf, zeroBytes]
  idx_le := Nat.zero_le _
  sub_le := Nat.zero_le _
  bits_eq := rfl
  slot_sub := fun _ => rfl
  full_sub := fun _ => rfl
  overlong_full := fun h => by simp [emptyBuf] at h
  partial_small := by simp [emptyBuf, byteAt_zeroBytes]
  rest_zero := fun j _ _ => byteAt_zeroBytes n j
  slot_bit := fun h => by simp [emptyBuf] at h

theorem emptyEntry_wf (n : Nat) : (emptyEntry n).WF n where
  length_eq := by simp [emptyEntry, zeroBytes]
  bitCount_le := Nat.zero_le _
  byteCount_le := Nat.zero_le _

/-- CaptureBit keeps a buffer well formed (R34, R82 to R85). -/
theorem captureBit_wf {n : Nat} {B : FrameBuf} (b : Bool) (h : B.WF n) : (captureBit n b B).WF n := by
  obtain ⟨hl, hi, hs, hb, h1, hf, ho, hp, hz, hbit⟩ := h
  rcases captureBit_cases n b B with ⟨hn, e⟩ | ⟨hn, idx, sub, e, c⟩
  · rw [e]
    exact ⟨hl, hi, hs, hb, h1, hf, fun _ => Nat.le_antisymm hi hn, hp, hz, hbit⟩
  · have hset : ∀ v, byteAt (B.bytes.set B.idx v) B.idx = v := fun v => byteAt_set_self v (by omega)
    have hshift : (shiftIn (byteAt B.bytes B.idx) b).toNat < 2 ^ (B.sub + 1) := by
      rw [shiftIn_toNat, pow_succ]
      have : b.toNat ≤ 1 := Bool.toNat_le b
      exact lt_of_le_of_lt (Nat.mod_le _ _) (by omega)
    have hover : B.overlong = false := by
      rw [← Bool.not_eq_true]
      exact fun h => absurd (ho h) (by omega)
    rw [e]
    rcases c with ⟨hi1, rfl, rfl⟩ | ⟨hi1, h7, rfl, rfl⟩ | ⟨hi1, h7, rfl, rfl⟩
    · have hs0 := h1 hi1
      refine ⟨by simpa using hl, by simp only []; omega, by simp, ?_, by simp, by simp, by simp [hover], ?_, ?_, ?_⟩
      · simp [hb, cursorBits, hi1]
      · rcases Nat.lt_or_ge 2 n with h2 | h2
        · simp only []
          rw [byteAt_set_ne _ (by omega), hz 2 h2 (by omega)]
          decide
        · simp [byteAt, List.getD_eq_getElem?_getD, List.getElem?_eq_none (show (B.bytes.set B.idx _).length ≤ 2 by simp; omega)]
      · intro j hj h2
        simp only [] at h2 ⊢
        rw [byteAt_set_ne _ (by omega), hz j hj (by omega)]
      · intro _
        have := hset (shiftIn (byteAt B.bytes B.idx) b)
        rw [hi1] at this hshift
        simp only [hi1, this]
        rw [hs0] at hshift
        omega
    · refine ⟨by simpa using hl, by simp only []; omega, by simp, ?_, by simp, by simp, by simp [hover], ?_, ?_, ?_⟩
      · simp only [hb, cursorBits, h7]
        split_ifs <;> omega
      · rcases Nat.lt_or_ge (B.idx + 1) n with h2 | h2
        · simp only []
          rw [byteAt_set_ne _ (by omega), hz _ h2 (by omega)]
          decide
        · simp [byteAt, List.getD_eq_getElem?_getD,
            List.getElem?_eq_none (show (B.bytes.set B.idx _).length ≤ B.idx + 1 by simp; omega)]
      · intro j hj h2
        simp only [] at h2 ⊢
        rw [byteAt_set_ne _ (by omega), hz j hj (by omega)]
      · intro h2
        simp only [] at h2 ⊢
        rw [byteAt_set_ne _ (by omega)]
        exact hbit (by omega)
    · refine ⟨by simpa using hl, hi, by simp only []; omega, ?_, by simp only []; omega, by simp only []; omega, by simp [hover], ?_, ?_, ?_⟩
      · simp only [hb, cursorBits]
        split_ifs <;> omega
      · simp only [hset]
        exact hshift
      · intro j hj h2
        simp only [] at h2 ⊢
        rw [byteAt_set_ne _ (by omega), hz j hj h2]
      · intro h2
        simp only [] at h2 ⊢
        rw [byteAt_set_ne _ (by omega)]
        exact hbit h2

/-- A well-formed buffer holds at most 8·N − 7 bits (R84). -/
theorem FrameBuf.WF.bits_le {n : Nat} {B : FrameBuf} (hn : 2 ≤ n) (h : B.WF n) : B.bits ≤ 8 * n - 7 := by
  have := h.bits_eq
  have := h.idx_le
  have := h.sub_le
  have := h.full_sub
  simp only [cursorBits] at *
  split_ifs at * <;> omega

/-- The entry of a well-formed buffer is well formed (R35). -/
theorem entryOf_wf {n : Nat} {B : FrameBuf} (hn : 2 ≤ n) (h : B.WF n) : (entryOf B).WF n :=
  ⟨h.length_eq, h.bits_le hn, h.idx_le⟩

/-- The command id stands once byte 0 is complete (R84). -/
theorem captureBit_id {n : Nat} {B : FrameBuf} (b : Bool) (h : B.WF n) (h8 : 8 ≤ B.bits) :
    byteAt (captureBit n b B).bytes 0 = byteAt B.bytes 0 := by
  have hb := h.bits_eq
  have hs := h.sub_le
  have hi : B.idx ≠ 0 := by
    intro h0
    simp [cursorBits, h0] at hb
    omega
  rcases captureBit_cases n b B with ⟨_, e⟩ | ⟨_, idx, sub, e, _⟩
  · rw [e]
  · rw [e]; exact byteAt_set_ne _ hi

/-- What an admitted SAMPLE does before its completion check (R180, R184, R185). -/
theorem handleSample_eq (d : Bool) (s : State) :
    handleSample d s = { s with
      sampleDue := none
      P := panelAfter d s
      M := moduleAfter d s
      modActivity := activityAfter d s
      modSkipped := skippedAfter s } := by
  unfold handleSample capturePanel captureModule sampledLevel panelAfter moduleAfter activityAfter skippedAfter
  by_cases hc : s.clk = true
  · simp [hc, ModuleCaptured, ModuleSkipped]
  · by_cases hm : s.cfgModule = true
    · by_cases hq : s.Q.length < s.params.moduleSkipLevel
      · have hq' : ¬ s.params.moduleSkipLevel ≤ s.Q.length := by omega
        cases d <;> cases s.writeLow <;> simp [hc, hm, hq, hq', ModuleCaptured, ModuleSkipped]
      · have hq' : s.params.moduleSkipLevel ≤ s.Q.length := by omega
        simp [hc, hm, hq, hq', ModuleCaptured, ModuleSkipped]
    · simp [hc, hm, ModuleCaptured, ModuleSkipped]

theorem gapSeen_iff (s : State) : gapSeen s = true ↔ s.params.gapUs < s.clockHighTime := by
  simp [gapSeen]

/-- The discard decision of a completion (R198). -/
theorem captureDiscards_iff (s : State) : captureDiscards s = true ↔ TooShort s.P ∨ RepeatsStatus s s.P := by
  unfold captureDiscards minBits TooShort RepeatsStatus
  split_ifs with h h5 hB
  · simp [h]
  · simp only [h, h5, isDuplicate_iff, false_or, true_and]
    simp
  · simp only [h, hB, isDuplicate_iff, false_or, true_and]
    simp
  · simp only [h, h5, hB, false_or, false_and]

/-- The trackers a completion leaves (R198). -/
theorem captureTrackers_eq (s : State) :
    captureTrackers s = { s with
      T05 := if ¬ TooShort s.P ∧ byteAt s.P.bytes 0 = 0x05 then tracked s.T05 s.P.bytes s.params.N else s.T05
      T1B := if ¬ TooShort s.P ∧ byteAt s.P.bytes 0 = 0x1B then tracked s.T1B s.P.bytes s.params.N else s.T1B } := by
  unfold captureTrackers minBits TooShort
  by_cases h : s.P.bits < 8
  · simp only [h, not_true, false_and, if_true, if_false]
  · by_cases h5 : byteAt s.P.bytes 0 = 0x05
    · simp only [h, h5, remember_eq, not_false_iff, and_self, if_true, if_false]
      rw [if_neg (by decide)]
    · by_cases hB : byteAt s.P.bytes 0 = 0x1B
      · simp only [h, hB, remember_eq, not_false_iff, and_self, if_true, if_false]
        simp
      · simp only [h, h5, hB, and_false, if_false]

/-- What the offer of a frame leaves (R199). -/
theorem offerFrame_eq (discard : Bool) (s : State) :
    offerFrame discard s = { s with
      Q := if discard = false ∧ s.Q.length ≠ s.params.QCAP then s.Q ++ [entryOf s.P] else s.Q
      overflow := s.overflow || decide (discard = false ∧ s.Q.length = s.params.QCAP) } := by
  unfold offerFrame enqueue
  cases discard
  · by_cases h : s.Q.length = s.params.QCAP <;> simp [h]
  · simp

theorem latchModule_eq (s : State) :
    latchModule s = { s with
      slot := if s.modActivity = true ∧ s.modSkipped = false then entryOf s.M else s.slot
      captured := s.captured || decide (s.modActivity = true ∧ s.modSkipped = false) } := by
  unfold latchModule
  by_cases h : s.modActivity = true ∧ s.modSkipped = false
  · simp [h]
  · have : (s.modActivity && !s.modSkipped) = false := by
      rw [← Bool.not_eq_true, Bool.and_eq_true, Bool.not_eq_true']
      exact h
    rw [this]
    simp [h]

/-- The completion sequence, whole (R196). -/
theorem complete_eq (s : State) :
    complete s = { s with
      lastGap := s.now / 1000
      T05 := if ¬ TooShort s.P ∧ byteAt s.P.bytes 0 = 0x05 then tracked s.T05 s.P.bytes s.params.N else s.T05
      T1B := if ¬ TooShort s.P ∧ byteAt s.P.bytes 0 = 0x1B then tracked s.T1B s.P.bytes s.params.N else s.T1B
      Q := if ¬ (TooShort s.P ∨ RepeatsStatus s s.P) ∧ s.Q.length ≠ s.params.QCAP then s.Q ++ [entryOf s.P] else s.Q
      overflow := s.overflow || decide (¬ (TooShort s.P ∨ RepeatsStatus s s.P) ∧ s.Q.length = s.params.QCAP)
      slot := if s.modActivity = true ∧ s.modSkipped = false then entryOf s.M else s.slot
      captured := s.captured || decide (s.modActivity = true ∧ s.modSkipped = false)
      wstate := (injectorGap s).wstate
      doneAt := (injectorGap s).doneAt
      lastAlarmDone := (injectorGap s).lastAlarmDone
      P := emptyBuf s.params.N
      M := emptyBuf s.params.N
      modActivity := false
      modSkipped := false
      clockHighTime := 0 } := by
  have hd : captureDiscards s = false ↔ ¬ (TooShort s.P ∨ RepeatsStatus s s.P) := by
    rw [← captureDiscards_iff, Bool.not_eq_true]
  unfold complete
  rw [captureTrackers_eq, offerFrame_eq, latchModule_eq, injectorGap_frame]
  simp only [clearScratch, hd]
  congr 1
  all_goals
    unfold injectorGap finishKey
    simp only []
    repeat' split
    all_goals rfl

end Sys2Proof.Machine
end

