-- ==== Sys2Proof/Laws/Codec.lean ====
section
/-! SUPPORT. The decoder and the encoder: what a head says, key bytes, lengths. -/

namespace Sys2Proof

/-- The decoder reads back the key byte of every key code. -/
@[simp] theorem decodeKeyByte_encode (k : KeyCode) : decodeKeyByte (encodeKeyByte k) = some k := by
  revert k; decide

/-- A byte that decodes to a key code is that code's key byte. -/
theorem encode_of_decodeKeyByte {b : Byte} {k : KeyCode} (h : decodeKeyByte b = some k) : encodeKeyByte k = b := by
  revert b k; decide

@[simp] theorem decodeKeys_map (ks : List KeyCode) : decodeKeys (ks.map encodeKeyByte) = some ks := by
  induction ks with
  | nil => rfl
  | cons k ks ih => simp [decodeKeys, ih]

/-- Bytes that decode to key codes are those codes' key bytes. -/
theorem map_of_decodeKeys {bs : List Byte} {ks : List KeyCode} (h : decodeKeys bs = some ks) :
    ks.map encodeKeyByte = bs := by
  induction bs generalizing ks with
  | nil => simp only [decodeKeys, Option.some.injEq] at h; subst h; rfl
  | cons b bs ih =>
    simp only [decodeKeys] at h
    split at h
    · rename_i k ks' hk hks
      simp only [Option.some.injEq] at h
      subst h
      simp [encode_of_decodeKeyByte hk, ih hks]
    · cases h

/-- The head byte of a WRSEQ announces its count. -/
theorem decodeHead_sequence (n : Nat) (h : n ≤ 31) :
    decodeHead (0b011#3 ++ BitVec.ofNat 5 n) = .sequence n := by
  have all : ∀ m : Fin 32, decodeHead (0b011#3 ++ BitVec.ofNat 5 m.val) = .sequence m.val := by decide
  exact all ⟨n, by omega⟩

/-- What a first byte says fixes the byte, as a check over the 256 bytes. -/
theorem decodeHead_inverse (op : Byte) :
    (match decodeHead op with
      | .single i => decide (encode i = [op] ∧ i.wellFormed = true)
      | .sequence n => decide (n ≤ 31 ∧ op = 0b011#3 ++ BitVec.ofNat 5 n)
      | .wait => decide (op = 0xE0)
      | .reserved => true) = true := by
  revert op; decide

/-- A one-byte operation is its own word. -/
theorem encode_of_decodeHead {op : Byte} {i : Instr} (h : decodeHead op = .single i) :
    encode i = [op] ∧ i.wellFormed = true := by
  simpa [h] using decodeHead_inverse op

/-- A WRSEQ header is its class and its count. -/
theorem header_of_decodeHead {op : Byte} {n : Nat} (h : decodeHead op = .sequence n) :
    n ≤ 31 ∧ op = 0b011#3 ++ BitVec.ofNat 5 n := by
  simpa [h] using decodeHead_inverse op

/-- A WAIT header is 0xE0. -/
theorem wait_of_decodeHead {op : Byte} (h : decodeHead op = .wait) : op = 0xE0 := by
  revert op; decide

/-- The three bytes of a delay are put together most significant first (R114). -/
theorem wait_bytes (delta : BitVec 24) :
    delta.extractLsb' 16 8 ++ delta.extractLsb' 8 8 ++ delta.extractLsb' 0 8 = delta := by
  ext i hi
  simp only [BitVec.getElem_append, BitVec.getElem_extractLsb']
  rcases Nat.lt_or_ge i 8 with h | h
  · simp [h, BitVec.getLsbD_eq_getElem hi]
  · rcases Nat.lt_or_ge i 16 with h' | h'
    · have e : 8 + (i - 8) = i := by omega
      simp [Nat.not_lt.2 h, show i - 8 < 8 by omega, e, BitVec.getLsbD_eq_getElem hi]
    · have e : 16 + (i - 8 - 8) = i := by omega
      simp [Nat.not_lt.2 h, Nat.not_lt.2 (show 8 ≤ i - 8 by omega), e, BitVec.getLsbD_eq_getElem hi]

/-- Every operation has at least one byte. -/
theorem encode_ne_nil (i : Instr) : encode i ≠ [] := by
  cases i <;> simp [encode]

end Sys2Proof
end

