-- ==== Sys2Proof/Laws/Consumer.lean ====
section
/-! SUPPORT. What a poll can do. -/

namespace Sys2Proof.Machine

/-- A poll up to the queue: the next key of a sequence staged, the connection evaluated (R261, R262). -/
theorem updateLiveness_seqAdvance (s : State) : updateLiveness (seqAdvance { s with polled := true }) = pollBegun s := by
  unfold pollBegun
  rcases seqAdvance_cases { s with polled := true } with ⟨k, ks, hs, hr, hf, e⟩ | ⟨hn, e⟩
  · rw [e]
    simp only [] at hs
    simp only [hs]
    rw [if_pos ⟨hr, hf⟩]
    rfl
  · rw [e]
    cases hs : s.seq with
    | nil => simp only [updateLiveness, busAlive_eq]
    | cons k ks =>
      have : ¬ (Ready s ∧ FloorElapsed s k) := fun c => hn k ⟨by simp [hs], c⟩
      simp only [this, if_false, updateLiveness, busAlive_eq]

/-- The fields a poll has written before it looks at the queue. -/
theorem pollBegun_frame (s : State) :
    pollBegun s = { s with
      polled := true
      connected := decide (s.now / 1000 - s.lastGap ≤ s.params.connectMs)
      changed := (decide (s.now / 1000 - s.lastGap ≤ s.params.connectMs) != s.connected)
      wkey := (pollBegun s).wkey
      seq := (pollBegun s).seq
      wstate := (pollBegun s).wstate } := by
  unfold pollBegun
  simp only []
  split
  · rfl
  · split <;> rfl

theorem loopSuppresses_iff (e : Entry) (s : State) : loopSuppresses e s = true ↔ RepeatsLoop s e := by
  unfold loopSuppresses loopOf RepeatsLoop
  by_cases hA : byteAt e.bytes 0 = 0x0A
  · rw [if_pos hA, hA]
    simp [isDuplicate_iff, loopTracker, loopLength]
  · rw [if_neg hA]
    by_cases h6 : byteAt e.bytes 0 = 0xE6
    · rw [if_pos h6, h6]
      by_cases h20 : byteAt e.bytes 2 = 0x20
      · rw [if_pos h20, h20]
        simp [isDuplicate_iff, loopTracker, loopLength]
      · rw [if_neg h20]
        by_cases h3 : byteAt e.bytes 2 = 0x03 ∧ s.params.partitions5to8 = true
        · rw [if_pos h3, h3.1, h3.2]
          simp [isDuplicate_iff, loopTracker, loopLength]
        · rw [if_neg h3]
          simp only [Bool.false_eq_true, false_iff]
          rintro (⟨h, _⟩ | ⟨_, h, _⟩ | ⟨_, h, h', _⟩)
          · exact absurd h (by decide)
          · exact h20 h
          · exact h3 ⟨h, h'⟩
    · rw [if_neg h6]
      simp only [Bool.false_eq_true, false_iff]
      rintro (⟨h, _⟩ | ⟨h, _⟩ | ⟨h, _⟩)
      · exact hA h
      · exact h6 h
      · exact h6 h

/-- The loop trackers a frame that was compared leaves (R268). -/
theorem loopRemembers_eq (e : Entry) (s : State) :
    loopRemembers e s = { s with
      T0A := if byteAt e.bytes 0 = 0x0A then tracked s.T0A e.bytes s.params.len0A else s.T0A
      TE6_20 := if byteAt e.bytes 0 = 0xE6 ∧ byteAt e.bytes 2 = 0x20 then tracked s.TE6_20 e.bytes s.params.lenE6_20
        else s.TE6_20
      TE6_03 := if byteAt e.bytes 0 = 0xE6 ∧ byteAt e.bytes 2 = 0x03 ∧ s.params.partitions5to8 = true then
        tracked s.TE6_03 e.bytes s.params.lenE6_03 else s.TE6_03 } := by
  unfold loopRemembers loopOf
  by_cases hA : byteAt e.bytes 0 = 0x0A
  · rw [if_pos hA, hA]
    simp [setLoopTracker, remember_eq, loopTracker, loopLength]
  · rw [if_neg hA]
    by_cases h6 : byteAt e.bytes 0 = 0xE6
    · rw [if_pos h6, h6]
      by_cases h20 : byteAt e.bytes 2 = 0x20
      · rw [if_pos h20, h20]
        simp [setLoopTracker, remember_eq, loopTracker, loopLength]
      · rw [if_neg h20]
        by_cases h3 : byteAt e.bytes 2 = 0x03 ∧ s.params.partitions5to8 = true
        · rw [if_pos h3, h3.1, h3.2]
          simp [setLoopTracker, remember_eq, loopTracker, loopLength]
        · rw [if_neg h3, if_neg (by decide), if_neg (fun h => h20 h.2), if_neg (fun h => h3 h.2)]
    · rw [if_neg h6, if_neg hA, if_neg (fun h => h6 h.1), if_neg (fun h => h6 h.1)]

theorem opensGate_iff (p : Params) (e : Entry) :
    opensGate p e = true ↔ p.gateBits ≤ e.bitCount ∨ byteAt e.bytes 0 = 0x05 := by
  simp only [opensGate, Bool.or_eq_true, decide_eq_true_eq, beq_iff_eq]

/-- What becomes of a dequeued frame (R266, R268, R270 to R273). -/
theorem consumeFrame_cases (e : Entry) (s : State) :
    (¬ PassesGate s e ∧ consumeFrame e s = dropFrame s) ∨
    (PassesGate s e ∧ RepeatsLoop s e ∧ consumeFrame e s = dropFrame { s with gateOpen := true }) ∨
    (PassesGate s e ∧ ¬ RepeatsLoop s e ∧ s.cfgRedundant = true ∧ RepeatsGeneral s e ∧
      consumeFrame e s = dropFrame (loopRemembers e { s with gateOpen := true })) ∨
    (PassesGate s e ∧ ¬ RepeatsLoop s e ∧ ¬ (s.cfgRedundant = true ∧ RepeatsGeneral s e) ∧
      consumeFrame e s = surfaceFrame e { loopRemembers e { s with gateOpen := true } with
        TGen := if s.cfgRedundant = true then tracked s.TGen e.bytes s.params.N else s.TGen }) := by
  have gate : (s.gateOpen || opensGate s.params e) = true ↔ PassesGate s e := by
    rw [Bool.or_eq_true, opensGate_iff]
  by_cases hg : PassesGate s e
  · refine .inr ?_
    have e1 : consumeFrame e s = consumeFilter e { s with gateOpen := true } := by
      simp [consumeFrame, gate.2 hg]
    have loop : loopSuppresses e { s with gateOpen := true } = true ↔ RepeatsLoop s e := loopSuppresses_iff e _
    by_cases hl : RepeatsLoop s e
    · exact .inl ⟨hg, hl, by rw [e1]; simp [consumeFilter, loop.2 hl]⟩
    · refine .inr ?_
      have hl' : loopSuppresses e { s with gateOpen := true } = false := by
        rw [← Bool.not_eq_true]; exact fun h => hl (loop.1 h)
      have e2 : consumeFrame e s = generalFilter e (loopRemembers e { s with gateOpen := true }) := by
        rw [e1]; simp [consumeFilter, hl']
      rw [loopRemembers_eq] at e2 ⊢
      by_cases hr : s.cfgRedundant = true
      · by_cases hd : RepeatsGeneral s e
        · refine .inl ⟨hg, hl, hr, hd, ?_⟩
          rw [e2]
          simp only [generalFilter, hr, if_true, (isDuplicate_iff _ _ _).2 hd]
        · refine .inr ⟨hg, hl, fun h => hd h.2, ?_⟩
          have hd' : isDuplicate s.TGen e.bytes s.params.N = false := by
            rw [← Bool.not_eq_true, isDuplicate_iff]; exact hd
          rw [e2]
          simp only [generalFilter, hr, if_true, hd', remember_eq]
          rfl
      · refine .inr ⟨hg, hl, fun h => hr h.1, ?_⟩
        rw [e2]
        simp only [generalFilter, hr]
        rfl
  · refine .inl ⟨hg, ?_⟩
    have : (s.gateOpen || opensGate s.params e) = false := by
      rw [← Bool.not_eq_true]; exact fun h => hg (gate.1 h)
    simp [consumeFrame, this]

/-- What a poll can do (R260, R263 to R265). -/
theorem pollPanel_cases (s : State) :
    (Disconnects s ∧ pollPanel s = returns (.pollp 2) (pollBegun s)) ∨
    (¬ Disconnects s ∧ s.Q = [] ∧ pollPanel s = returns (emptyHanded (pollBegun s)) (pollBegun s)) ∨
    (¬ Disconnects s ∧ ∃ e rest, s.Q = e :: rest ∧
      pollPanel s = consumeFrame e { pollBegun s with Q := rest }) := by
  have hq : (pollBegun s).Q = s.Q := by rw [pollBegun_frame]
  have hd : ((pollBegun s).changed && !(pollBegun s).connected) = true ↔ Disconnects s := by
    rw [pollBegun_frame]
    by_cases h : s.now / 1000 - s.lastGap ≤ s.params.connectMs
    · simp [h, Disconnects]
    · cases hc : s.connected <;> simp [h, Disconnects, hc]; omega
  unfold pollPanel pollQueue
  rw [updateLiveness_seqAdvance]
  by_cases h : Disconnects s
  · exact .inl ⟨h, by rw [hd.2 h]; rfl⟩
  · refine .inr ?_
    have h' : ((pollBegun s).changed && !(pollBegun s).connected) = false := by
      rw [← Bool.not_eq_true]; exact fun c => h (hd.1 c)
    rw [h']
    cases hQ : s.Q with
    | nil => exact .inl ⟨h, rfl, by simp [hq, hQ, noFrameResult, emptyHanded, resEvent, resNone]⟩
    | cons e rest => exact .inr ⟨h, e, rest, rfl, by simp [hq, hQ]⟩

end Sys2Proof.Machine
end

