-- ==== Sys2Proof/Laws/PerInstr.lean ====
section
/-! SUPPORT. Facts proved constructor by constructor. -/

namespace Sys2Proof.Laws

/-- The first byte of an operation's word gives the word's length (R115). -/
def EncodedLength.Statement (i : Instr) : Prop :=
  i.wellFormed = true → ∃ op rest, encode i = op :: rest ∧ opLength op = rest.length + 1

theorem EncodedLength.edge (l : Bool) : EncodedLength.Statement (.edge l) :=
  fun _ => ⟨_, _, rfl, by revert l; decide⟩

theorem EncodedLength.sample (d : Bool) : EncodedLength.Statement (.sample d) :=
  fun _ => ⟨_, _, rfl, by revert d; decide⟩

theorem EncodedLength.wrkey (k : KeyCode) : EncodedLength.Statement (.wrkey k) :=
  fun _ => ⟨_, _, rfl, by revert k; decide⟩

theorem EncodedLength.wrseq (ks : List KeyCode) : EncodedLength.Statement (.wrseq ks) := by
  intro h
  have hl : ks.length ≤ 31 := by simpa [Instr.wellFormed] using h
  refine ⟨_, _, rfl, ?_⟩
  simp only [opLength, decodeHead_sequence _ hl, List.length_map]
  omega

theorem EncodedLength.pollp : EncodedLength.Statement .pollp := fun _ => ⟨_, _, rfl, by decide⟩

theorem EncodedLength.pollm : EncodedLength.Statement .pollm := fun _ => ⟨_, _, rfl, by decide⟩

theorem EncodedLength.status : EncodedLength.Statement .status := fun _ => ⟨_, _, rfl, by decide⟩

theorem EncodedLength.ackovf : EncodedLength.Statement .ackovf := fun _ => ⟨_, _, rfl, by decide⟩

theorem EncodedLength.reset : EncodedLength.Statement .reset := fun _ => ⟨_, _, rfl, by decide⟩

theorem EncodedLength.config (m r : Bool) : EncodedLength.Statement (.config m r) :=
  fun _ => ⟨_, _, rfl, by revert m r; decide⟩

theorem EncodedLength.wait (delta : BitVec 24) : EncodedLength.Statement (.wait delta) :=
  fun _ => ⟨_, _, rfl, by simp only [opLength]; rfl⟩

end Sys2Proof.Laws
end

