-- ==== Sys2Proof/Laws/Step.lean ====
section
/-! SUPPORT. What one step can do: wait, refuse the stream, or perform its next operation. -/

namespace Sys2Proof.Machine

open Sys2Proof

/-- Only an empty stream offers nothing. -/
theorem decode_noOperation_iff (bs : List Byte) : decode bs = .error .noOperation ↔ bs = [] := by
  constructor
  · intro h
    cases bs with
    | nil => rfl
    | cons op rest =>
      simp only [decode] at h
      split at h
      · cases h
      · cases h
      · split at h
        · cases h
        · split at h <;> cases h
      · split at h <;> cases h
  · rintro rfl; rfl

/-- A stream that does not decode is refused with its reason, and nothing of it is left (R117, R119). -/
theorem rejectStream_eq (r : RefuseReason) (s : State) :
    rejectStream r s = { s with refusals := s.refusals ++ [r], pending := [] } := rfl

/-- Everything a step can do (R94, R95, R119). -/
theorem step_cases (s : State) :
    (s.pending = [] ∧ step s = .next s) ∨
    (decode s.pending = .error .reserved ∧ step s = .next (rejectStream .reserved s)) ∨
    (decode s.pending = .error .incomplete ∧ step s = .next (rejectStream .incomplete s)) ∨
    (∃ i rest, decode s.pending = .ok (i, rest) ∧ step s = exec i (withPending rest s)) := by
  cases h : decode s.pending with
  | ok p => exact .inr (.inr (.inr ⟨p.1, p.2, rfl, by simp [step, fetch, h]⟩))
  | error e =>
    cases e with
    | noOperation => exact .inl ⟨(decode_noOperation_iff _).1 h, by simp [step, fetch, h]⟩
    | reserved => exact .inr (.inl ⟨rfl, by simp [step, fetch, h]⟩)
    | incomplete => exact .inr (.inr (.inl ⟨rfl, by simp [step, fetch, h]⟩))

end Sys2Proof.Machine
end

