-- ==== Sys2Proof/Machine/Assembler.lean ====
section
/-! DEFINITION. The assembler syntax of R136 with the pseudo-operations of R137: one line to its operations. What R136
leaves to the reader (blanks, letter case, where commas stand) is log 16. -/

namespace Sys2Proof.Machine

/-- The line up to its comment (R136). -/
def dropComment (cs : List Char) : List Char := cs.takeWhile (· != ';')

/-- Blanks and commas part the words of a line (log 16). -/
def isSeparator (c : Char) : Bool := c == ' ' || c == '\t' || c == ','

/-- The words of a line: `current` is the word being read, its letters in reverse. -/
def splitWords : List Char → List Char → List (List Char)
  | current, [] => if current.isEmpty then [] else [current.reverse]
  | current, c :: cs =>
    if isSeparator c then
      if current.isEmpty then splitWords [] cs else current.reverse :: splitWords [] cs
    else splitWords (c :: current) cs

/-- The value of a digit in a base up to 16. -/
def digitValue (base : Nat) (c : Char) : Option Nat :=
  let n := c.toNat
  let v :=
    if 48 ≤ n ∧ n ≤ 57 then some (n - 48)
    else if 97 ≤ n ∧ n ≤ 102 then some (n - 87)
    else if 65 ≤ n ∧ n ≤ 70 then some (n - 55)
    else none
  v.bind fun d => if d < base then some d else none

/-- The number a run of digits writes, after `acc`. -/
def readDigits (base acc : Nat) : List Char → Option Nat
  | [] => some acc
  | c :: cs =>
    match digitValue base c with
    | some d => readDigits base (base * acc + d) cs
    | none => none

/-- A number, decimal or `0x` hexadecimal (R136). -/
def readNumber : List Char → Option Nat
  | [] => none
  | '0' :: 'x' :: c :: cs => readDigits 16 0 (c :: cs)
  | c :: cs => readDigits 10 0 (c :: cs)

/-- A one-bit operand. -/
def readBit (w : List Char) : Option Bool :=
  match readNumber w with
  | some 0 => some false
  | some 1 => some true
  | _ => none

/-- The key names in the order of their codes (R121). -/
def keyNames : List (List Char) :=
  ["DIG0", "DIG1", "DIG2", "DIG3", "DIG4", "DIG5", "DIG6", "DIG7", "DIG8", "DIG9", "READ", "ADDRESS", "ENTER",
    "BYPASS", "HOME", "CODE"].map String.toList

/-- The place of a word in a list of words. -/
def placeOf (w : List Char) : List (List Char) → Nat → Option Nat
  | [], _ => none
  | v :: vs, n => if w = v then some n else placeOf w vs (n + 1)

/-- A key operand: a number 0..31, a key name, or a digit character `'0'`..`'9'` (R136, R128). -/
def readKey (w : List Char) : Option KeyCode :=
  match w with
  | ['\'', c, '\''] => (digitValue 10 c).map (BitVec.ofNat 5)
  | _ =>
    match readNumber w with
    | some n => if n ≤ 31 then some (BitVec.ofNat 5 n) else none
    | none => (placeOf w keyNames 0).map (BitVec.ofNat 5)

/-- Key operands, all of them readable. -/
def readKeys : List (List Char) → Option (List KeyCode)
  | [] => some []
  | w :: ws =>
    match readKey w, readKeys ws with
    | some k, some ks => some (k :: ks)
    | _, _ => none

/-- The bits of a FRAME line: blanks only group them (R137; 95_test_vectors.md section 1). -/
def readBits : List Char → Option (List Bool)
  | [] => some []
  | '0' :: cs => (readBits cs).map (false :: ·)
  | '1' :: cs => (readBits cs).map (true :: ·)
  | _ :: _ => none

/-- Two one-bit operands. -/
def readTwoBits (f : Bool → Bool → List Instr) : List (List Char) → Option (List Instr)
  | [a, b] =>
    match readBit a, readBit b with
    | some x, some y => some (f x y)
    | _, _ => none
  | _ => none

/-- One one-bit operand. -/
def readOneBit (f : Bool → Instr) : List (List Char) → Option (List Instr)
  | [a] => (readBit a).map fun b => [f b]
  | _ => none

/-- No operand. -/
def readNone (is : List Instr) : List (List Char) → Option (List Instr)
  | [] => some is
  | _ :: _ => none

/-- The operations of a statement, by its first word (R136, R137). R136 gives one operation a line and does not speak of
a line with no word, empty or of blanks and a comment alone: DESIGN CHOICE (log 16), it is accepted as no operation. -/
def assembleWords : List (List Char) → Option (List Instr)
  | [] => some []
  | w :: ws =>
    if w = "EDGE".toList then readOneBit .edge ws
    else if w = "SAMPLE".toList then readOneBit .sample ws
    else if w = "WRKEY".toList then
      match ws with
      | [a] => (readKey a).map fun k => [.wrkey k]
      | _ => none
    else if w = "WRSEQ".toList then
      match readKeys ws with
      | some ks => if ks.length ≤ 31 then some [.wrseq ks] else none
      | none => none
    else if w = "POLLP".toList then readNone [.pollp] ws
    else if w = "POLLM".toList then readNone [.pollm] ws
    else if w = "STATUS".toList then readNone [.status] ws
    else if w = "ACKOVF".toList then readNone [.ackovf] ws
    else if w = "RESET".toList then readNone [.reset] ws
    else if w = "CONFIG".toList then readTwoBits (fun m r => [.config m r]) ws
    else if w = "WAIT".toList then
      match ws with
      | [a] =>
        match readNumber a with
        | some n => if n ≤ maxWait then some [.wait (BitVec.ofNat 24 n)] else none
        | none => none
      | _ => none
    else if w = "BIT".toList then readTwoBits pseudoBit ws
    else if w = "GAP".toList then readTwoBits pseudoGap ws
    else if w = "SYNC".toList then readNone pseudoSync ws
    else if w = "FRAME".toList then
      match readBits ws.flatten with
      | some (b :: bs) => some (pseudoFrame (b :: bs))
      | _ => none
    else if w = "WAITMS".toList then
      match ws with
      | [a] => (readNumber a).map pseudoWaitMs
      | _ => none
    else none

/-- One line of assembler text: its operations, none where the line is malformed (R136). -/
def assembleLine (cs : List Char) : Option (List Instr) := assembleWords (splitWords [] (dropComment cs))

end Sys2Proof.Machine
end

