-- ==== Sys2Proof/Tests/Slice0.lean ====
section
/-! SUPPORT. Tests: ill-formed terms, words of the encoding tables, one step per operation (expected values from
95_test_vectors.md, the vector named at each), and a witness for every statement that has hypotheses. -/

namespace Sys2Proof.Tests

open Sys2Proof Sys2Proof.Machine

/-! ## Helpers -/

/-- The reference parameters with every key pattern written out (`0x123456` is the test value of 95_test_vectors.md
section 1; 0xDD stands for every plain key) and one write-window command id. -/
def testParams : Params :=
  { Params.reference with
    writeCmds := [0x05]
    alarmKeys := [2]
    keyPattern8 := List.replicate 12 0xDD
    keyPattern24 := [0x123456, 0, 0, 0] }

/-- Power-on with the test parameters. -/
def base : State := State.powerOn testParams

/-- The next state of an operation; the state itself where there is none. -/
def after (i : Instr) (s : State) : State :=
  match exec i s with
  | .next t => t
  | .fault _ => s
  | .refused _ => s

/-- The next state of a step; the state itself where there is none. -/
def stepped (s : State) : State :=
  match step s with
  | .next t => t
  | .fault _ => s
  | .refused _ => s

/-- The refusals a step on a stream records, from a state. -/
def refusalsOf (bs : List Byte) (s : State) : List RefuseReason := (stepped { s with pending := bs }).refusals

/-- An entry of 16 bytes with the given leading ones. -/
def entry16 (bs : List Byte) (bits count : Nat) : Entry := ⟨bs ++ zeroBytes (16 - bs.length), bits, count⟩

/-- A panel scratch of 16 bytes with the given leading ones. -/
def buf16 (bs : List Byte) (bits idx sub : Nat) : FrameBuf := ⟨bs ++ zeroBytes (16 - bs.length), bits, idx, sub, false⟩

/-- The sample instant in the panel half, no gap. -/
def highSample : State := { base with now := 250, clk := true, sampleDue := some 250 }

/-- The sample instant in the module half, no gap. -/
def lowSample : State := { base with now := 250, sampleDue := some 250, cfgModule := true }

/-- The sample instant in the module half after a gap of 1001 µs, the frame `05 00 81` of 17 bits in the scratch. -/
def gapSample : State :=
  { lowSample with now := 19750, sampleDue := some 19750, clockHighTime := 1001, P := buf16 [0x05, 0, 0x81] 17 3 0 }

/-- Key '1' staged, the panel scratch at the window start: ten bits of a frame with id 0x05. -/
def atWindow : State := { base with now := 11500, lastRise := 11000, wstate := .staged, wkey := 1, P := buf16 [0x05] 10 2 1 }

/-- A pass in progress at window position `i`. -/
def inWindow (pass : WPass) (k : Key) (i : Nat) : State :=
  { base with now := 19500, wstate := .active, wpass := pass, wkey := k, P := buf16 [0x05] (9 + i) 2 0 }

/-- A poll of a connected block with one frame queued, the gate open. -/
def pollState (e : Entry) : State := { base with now := 20000, lastGap := 19, connected := true, gateOpen := true, Q := [e] }

/-- The frame `05 00 81` of 17 bits. -/
def frame05 : Entry := entry16 [0x05, 0, 0x81] 17 3

/-- A frame of an id no filter knows, of 23 bits: one too short to open the gate. -/
def frame23 : Entry := entry16 [0x11, 0, 0xFF, 0x3F] 23 3

/-- A frame of the 0x0A loop. -/
def frame0A : Entry := entry16 [0x0A, 0, 1] 10 2

/-! ## Well-formedness -/

theorem test_wrseq_of_32_keys_refused : (Instr.wrseq (List.replicate 32 0)).wellFormed = false := by decide
theorem test_wrseq_of_31_keys_accepted : (Instr.wrseq (List.replicate 31 31)).wellFormed = true := by decide
theorem test_params_reference_valid : Params.reference.valid = true := by decide
theorem test_params_short_buffer_refused : { Params.reference with N := 2 }.valid = false := by decide

/-! ## Words of the encoding tables (R112 to R114; V-ENC-1 to V-ENC-14) -/

theorem test_decode_edge : decode [0b00000001] = .ok (.edge true, []) := by decide
theorem test_decode_sample : decode [0b00100000] = .ok (.sample false, []) := by decide
theorem test_decode_wrkey : decode [0b01000001] = .ok (.wrkey 1, []) := by decide
theorem test_decode_wrseq :
    decode [0b01100011, 0b00000001, 0b00010100, 0b00000010] = .ok (.wrseq [1, 20, 2], []) := by decide
theorem test_decode_pollp : decode [0b10000000, 0xA0] = .ok (.pollp, [0xA0]) := by decide
theorem test_decode_pollm : decode [0b10100000] = .ok (.pollm, []) := by decide
theorem test_decode_status : decode [0b11000000] = .ok (.status, []) := by decide
theorem test_decode_ackovf : decode [0b11000001] = .ok (.ackovf, []) := by decide
theorem test_decode_reset : decode [0b11000010] = .ok (.reset, []) := by decide
theorem test_decode_config : decode [0b11010010] = .ok (.config true false, []) := by decide
theorem test_decode_wait : decode [0b11100000, 0x2D, 0xCA, 0xA7] = .ok (.wait 3000999, []) := by decide

/-- V-ENC-12. -/
theorem test_decode_reserved :
    ∀ b ∈ ([0x02, 0x1F, 0x22, 0x3F, 0x81, 0x9F, 0xA1, 0xBF, 0xC3, 0xCF, 0xD4, 0xDF, 0xE1, 0xFF] : List Byte),
      decode [b] = .error .reserved := by decide
/-- V-ENC-7, V-ENC-8, V-ENC-10; a short WRSEQ with a bad key byte is short first (log 5). -/
theorem test_decode_bad_sequences :
    decode [0x61, 0x21] = .error .reserved ∧ decode [0x62, 0x01] = .error .incomplete ∧
    decode [0xE0, 0x00, 0x04] = .error .incomplete ∧ decode [0x62, 0x21] = .error .incomplete := by decide
/-- V-ENC-14 in the machine: the rest of the stream is gone with the refused encoding (log 4). -/
theorem test_step_drops_the_rest :
    (stepped { base with pending := [0xC5, 0x01] }).pending = [] ∧
      (stepped { base with pending := [0x62, 0x01] }).pending = [] := by decide
/-- V-ENC-14: nothing after a refused encoding is decoded. -/
theorem test_decode_stops_at_refusal : decodeStream [0x01, 0xC5, 0x01] = ([.edge true], some .reserved) := by decide

/-- R137: the twenty bytes of `BIT 0, 1` and of `GAP 1, 1`. -/
theorem test_pseudo_bit :
    encodeStream (pseudoBit false true) =
      [0x01, 0xE0, 0, 0, 0xFA, 0x20, 0xE0, 0, 0, 0xFA, 0x00, 0xE0, 0, 0, 0xFA, 0x21, 0xE0, 0, 0, 0xFA] := by decide
theorem test_pseudo_gap :
    encodeStream (pseudoGap true true) =
      [0x01, 0xE0, 0, 0, 0xFA, 0x21, 0xE0, 0, 0x04, 0xE2, 0x00, 0xE0, 0, 0, 0xFA, 0x21, 0xE0, 0, 0, 0xFA] := by decide
/-- R136, R137: lines of assembler text. -/
theorem test_assemble_wrseq : assembleLine "WRSEQ 1, 20, CODE ; keys".toList = some [.wrseq [1, 20, 15]] := by decide
theorem test_assemble_frame : assembleLine "FRAME 0 1".toList = some (pseudoBit false true ++ pseudoGap true true) := by
  decide
/-- R137, log 19: 16 778 ms is one of the longest WAITs and a remainder of 785 µs. -/
theorem test_waitms_splits :
    assembleLine "WAITMS 16778".toList = some [.wait 16777215, .wait 785] ∧
      pseudoWaitMs 0 = [.wait 0] := by decide
/-- Log 19: twice the longest wait is two WAITs and no third. -/
theorem test_wait_split_exact : waitMicros 33554430 = [.wait 16777215, .wait 16777215] := by decide
/-- Log 16: a line without a word holds no operation. -/
theorem test_assemble_comment_line : assembleLine " ; only a comment".toList = some [] := by decide
theorem test_assemble_unknown : assembleLine "EDGE 2".toList = none := by decide

/-! ## The table's words -/

theorem test_table_word_config : decodeTableWord 8 0xD2 = some (.config true false) := by decide
/-- Byte 1 of a WAIT is bits 15..8 of the table word; absent bytes are zero. -/
theorem test_table_word_wait :
    decodeTableWord 32 0xFA0000E0 = some (.wait 250) ∧ decodeTableWord 8 0xE0 = some (.wait 0) := by decide
theorem test_fetch_word_runs : (stepped (State.reset.withFetchWord 8 0x01)).sampleDue = some 250 := by decide
theorem test_fetch_word_wait : (stepped (State.reset.withFetchWord 32 0xFA0000E0)).now = 250 := by decide

/-! ## One step of each operation -/

/-- V-EDGE-1. -/
theorem test_edge_rising :
    let t := after (.edge true) { base with now := 5000, writeLow := true }
    (t.clk, t.lastRise, t.writeLow, t.sampleDue) = (true, 5000, false, some 5250) := by decide
/-- V-EDGE-2. -/
theorem test_edge_falling :
    let t := after (.edge false) { base with now := 18000, lastRise := 17000 }
    (t.clockHighTime, t.sampleDue, t.clk) = (1000, some 18250, false) := by decide
/-- V-SAM-3. -/
theorem test_sample_shifts_into_scratch :
    (after (.sample true) { highSample with P := buf16 [0x02] 2 0 2, clockHighTime := 500 }).P = buf16 [0x05] 3 0 3 := by
  decide
/-- The completion of P1 and P3: the frame `05 00 81` is enqueued, `lastGap = 19`, the gap is consumed. -/
theorem test_sample_completes :
    let t := after (.sample true) gapSample
    (t.Q, t.lastGap, t.clockHighTime, t.P) = ([frame05], 19, 0, emptyBuf 16) := by decide
/-- P3: `WRKEY 1` stages the key. -/
theorem test_wrkey_stages :
    let t := after (.wrkey 1) base
    (t.wstate, t.wkey, writeReady t) = (.staged, 1, false) := by decide
/-- V-WR-13: ready, but the alarm floor of 500 ms has not elapsed after 300 ms. -/
theorem test_wrkey_alarm_floor :
    after (.wrkey 2) { base with now := 400000, wstate := .drain, doneAt := 100, lastAlarmDone := some 100 } =
      { base with now := 400000, wstate := .drain, doneAt := 100, lastAlarmDone := some 100 } := by rfl
/-- V-WR-8: key 20 is dropped, the first key staged, the rest kept. -/
theorem test_wrseq_drops_invalid :
    let t := after (.wrseq [1, 20, 2]) base
    (t.wstate, t.wkey, t.seq) = (.staged, 1, [2]) := by decide
/-- R233: the sequence is cut to SEQ_CAP keys. -/
theorem test_wrseq_cut : (after (.wrseq (List.replicate 31 3)) base).seq.length = 15 := by decide
/-- V-POLL-1. -/
theorem test_pollp_event :
    let t := after .pollp base
    (t.connected, t.changed, t.result) = (true, true, some (.pollp 2)) := by decide
/-- V-POLL-8: two 0xE6/0x20 frames that differ only in byte 8 are equal over eight bytes. -/
theorem test_pollp_loop_length :
    let e : Entry := entry16 [0xE6, 0, 0x20, 1, 2, 3, 4, 5, 7] 65 9
    (after .pollp { pollState e with TE6_20 := (entry16 [0xE6, 0, 0x20, 1, 2, 3, 4, 5, 6] 65 9).bytes }).result =
      some (.pollp 0) := by decide
/-- V-PM-1. -/
theorem test_pollm_reads_slot :
    let t := after .pollm { base with captured := true, slot := entry16 [0xFF, 1, 0xDD] 17 3 }
    (t.result, t.moduleOut, t.captured) = (some (.pollm 1), entry16 [0xFF, 1, 0xDD] 17 3, false) := by decide
/-- V-PM-2. -/
theorem test_pollm_empty :
    let t := after .pollm base
    (t.result, t.polled) = (some (.pollm 0), true) := by decide
/-- V-ST-1. -/
theorem test_status_connected :
    (after .status { base with connected := true, changed := true }).result = some (.status 0x0E) := by decide
/-- The last STATUS of P6: line held low, drain elapsed, connected. -/
theorem test_status_line_low :
    (after .status { base with
      now := 369000, wstate := .drain, doneAt := 69, writeLow := true, connected := true }).result =
      some (.status 0x1A) := by decide
/-- V-ST-4. -/
theorem test_ackovf_clears : (after .ackovf { base with overflow := true }).overflow = false := by decide
/-- V-RST-1. -/
theorem test_reset_keeps_time :
    let t := after .reset { base with now := 5000000, overflow := true, gateOpen := true, Q := [frame05, frame05] }
    (t.overflow, t.gateOpen, t.Q, t.now) = (false, false, [], 5000000) := by decide
/-- V-RST-2, V-RST-5: admitted at the sample instant, refusals kept. -/
theorem test_reset_at_deadline :
    let t := after .reset { highSample with refusals := [.deadline] }
    (t.sampleDue, t.refusals) = (none, [.deadline]) := by decide
/-- V-CFG-1. -/
theorem test_config_sets :
    let t := after (.config true false) base
    (t.cfgModule, t.cfgRedundant) = (true, false) := by decide
/-- V-WAIT-1, V-WAIT-2. -/
theorem test_wait_to_deadline :
    (after (.wait 250) { base with now := 1000, sampleDue := some 1250 }).now = 1250 ∧
    (after (.wait 251) { base with now := 1000, sampleDue := some 1250 }).refusals = [.deadlineCrossed] := by decide

/-! ## Witnesses: encodings and the step -/

theorem witness_DecodeOfEncodeIsTheOperation : (Instr.wrseq (List.replicate 31 31)).wellFormed = true := by decide
theorem witness_DecodedBytesAreTheOperationsWord : decode [0x61, 0x1F, 0x01] = .ok (.wrseq [31], [0x01]) := by decide
theorem witness_ReservedEncodingsAreRefused_first_byte :
    ({ base with pending := [0x02, 0x01] } : State).pending = 0x02 :: [0x01] ∧
      ∀ b ∈ ([0x02, 0x1F, 0x22, 0x3F, 0x81, 0x9F, 0xA1, 0xBF, 0xC3, 0xCF, 0xD4, 0xDF, 0xE1, 0xFF] : List Byte),
        ReservedByte b := by decide
theorem witness_ReservedEncodingsAreRefused_key_byte :
    0x60 ≤ (0x61 : Byte).toNat ∧ (0x61 : Byte).toNat ≤ 0x7F ∧ [(0x20 : Byte)].length = (0x61 : Byte).toNat % 32 ∧
      ({ base with pending := [0x61, 0x20, 0x01] } : State).pending = 0x61 :: ([0x20] ++ [0x01]) ∧
      ∃ b ∈ [(0x20 : Byte)], 32 ≤ b.toNat := by decide
theorem witness_ReservedEncodingsAreRefused_others :
    ∀ b ∈ ([0x00, 0x01, 0x20, 0x21, 0x40, 0x5F, 0x60, 0x7F, 0x80, 0xA0, 0xC0, 0xC2, 0xD0, 0xD3, 0xE0] : List Byte),
      ¬ ReservedByte b := by decide
theorem witness_FirstByteGivesTheLength_short :
    ({ base with pending := 0x7F :: List.replicate 30 0 } : State).pending = 0x7F :: List.replicate 30 0 ∧
      (List.replicate 30 (0 : Byte)).length + 1 < lengthByFirstByte 0x7F ∧ [(0 : Byte), 0].length + 1 < lengthByFirstByte 0xE0 := by
  decide
theorem witness_FirstByteGivesTheLength_whole :
    decode (0x7F :: List.replicate 31 0) = .ok (.wrseq (List.replicate 31 0), []) ∧
      decode [0xE0, 0, 0, 1, 0x80] = .ok (.wait 1, [0x80]) := by decide
theorem witness_RunOfEncodedOperationsIsTheOperations :
    ∀ i ∈ ([.edge true, .wait 250, .sample true, .wrseq []] : List Instr), i.wellFormed = true := by decide
theorem witness_StepRunsTheDecodedOperation :
    decode ({ base with pending := [0x01, 0x80] } : State).pending = .ok (.edge true, [0x80]) := by decide
theorem witness_EmptyStreamWaits : base.pending = [] := rfl

/-! ## Witnesses: admission and refusals -/

theorem witness_DeadlineAdmitsOnlySampleAndReset :
    TimerFires highSample ∧ Instr.pollp ≠ .reset ∧ ∀ d, Instr.pollp ≠ .sample d := by decide
theorem witness_RefusalsFollowTheirTable :
    (∀ due ∈ lowSample.sampleDue, lowSample.now ≤ due) ∧
      step { lowSample with pending := [0x80] } = .next (refuse .deadline lowSample) := ⟨by decide, rfl⟩
/-- One case of each row of R306 (V-ENC-7, V-ENC-8, V-POLL-12, V-WAIT-2, V-SAM-1, V-SAM-2, V-CFG-3). -/
theorem test_refusals_of_every_row :
    refusalsOf [0x61, 0x21] base = [.reserved] ∧ refusalsOf [0x62, 0x01] base = [.incomplete] ∧
    refusalsOf [0x80] highSample = [.deadline] ∧
    refusalsOf [0xE0, 0, 0, 251] { base with sampleDue := some 250 } = [.deadlineCrossed] ∧
    refusalsOf [0x21] base = [.noDeadline] ∧ refusalsOf [0x21] { base with sampleDue := some 250 } = [.early] ∧
    refusalsOf [0xD3] { base with polled := true } = [.configAfterPoll] := by decide
/-- Where two rows of R306 could apply: decoding comes before the deadline rule (log 4), the length before the key bytes
(log 5). -/
theorem test_refusals_of_overlapping_rows :
    refusalsOf [0x02] highSample = [.reserved] ∧ refusalsOf [0xE0] highSample = [.incomplete] ∧
    refusalsOf [0x62, 0x21] base = [.incomplete] := by decide
theorem witness_SampleIsAdmittedAtItsDeadline :
    base.sampleDue = none ∧ ({ base with now := 249, sampleDue := some 250 } : State).sampleDue = some 250 ∧
      ({ base with now := 249, sampleDue := some 250 } : State).now < 250 ∧ TimerFires highSample := by decide
theorem witness_ArmedSampleIsReached :
    ({ base with sampleDue := some 16777215 } : State).sampleDue = some 16777215 ∧ base.now < 16777215 ∧
      16777215 - base.now < 2 ^ 24 ∧ base.now < 1 ∧ 1 - base.now < 2 ^ 24 := by decide

/-! ## Witnesses: edges and time -/

theorem witness_RisingEdgeResult : ¬ TimerFires { base with sampleDue := some 1 } := by decide
theorem witness_EveryEdgeArmsTheTimer : ¬ TimerFires { base with sampleDue := some 1 } := by decide
theorem witness_FallingEdgeWithoutPass_disabled :
    let s : State := { atWindow with params := { testParams with writeEnabled := false } }
    ¬ TimerFires s ∧ s.params.writeEnabled = false := by decide
theorem witness_FallingEdgeWithoutPass_outside :
    let s : State := { atWindow with P := buf16 [0x05] 9 2 0 }
    let u : State := { atWindow with P := buf16 [0x06] 10 2 1 }
    ¬ TimerFires s ∧ s.wstate ≠ .active ∧ ¬ ((s.wstate = .staged ∨ s.wstate = .armed2) ∧ WindowOpens s) ∧
      ¬ ((u.wstate = .staged ∨ u.wstate = .armed2) ∧ WindowOpens u) := by decide
theorem witness_FallingEdgeStartsPass_plain :
    ¬ TimerFires atWindow ∧ atWindow.params.writeEnabled = true ∧
      (atWindow.wstate = .staged ∨ atWindow.wstate = .armed2) ∧ WindowOpens atWindow ∧
      WPass.plain = (if atWindow.wstate = .armed2 then .pass2 else if 12 ≤ atWindow.wkey.val then .pass1 else .plain) := by
  decide
theorem witness_FallingEdgeStartsPass_command :
    let s : State := { atWindow with wkey := 12 }
    let u : State := { atWindow with wkey := 12, wstate := .armed2 }
    WPass.pass1 = (if s.wstate = .armed2 then .pass2 else if 12 ≤ s.wkey.val then .pass1 else .plain) ∧
      WPass.pass2 = (if u.wstate = .armed2 then .pass2 else if 12 ≤ u.wkey.val then .pass1 else .plain) ∧
      ¬ TimerFires u ∧ u.params.writeEnabled = true ∧ (u.wstate = .staged ∨ u.wstate = .armed2) ∧ WindowOpens u := by
  decide
theorem witness_FallingEdgeDrivesPosition :
    ∀ p ∈ [(WPass.plain, (1 : Key), 1), (.plain, 1, 7), (.pass1, 12, 23), (.pass2, 12, 23)],
      let s := inWindow p.1 p.2.1 p.2.2
      ¬ TimerFires s ∧ s.params.writeEnabled = true ∧ s.wstate = .active ∧ 1 ≤ p.2.2 ∧
        s.P.bits + 1 = s.params.wstart + p.2.2 ∧ p.2.2 < sentWidth s.wpass := by decide
theorem witness_FallingEdgeEndsPass :
    ∀ p ∈ [(WPass.plain, (2 : Key), 8), (.plain, 1, 9), (.pass1, 12, 24), (.pass2, 12, 24)],
      let s := inWindow p.1 p.2.1 p.2.2
      ¬ TimerFires s ∧ s.params.writeEnabled = true ∧ s.wstate = .active ∧
        s.P.bits + 1 = s.params.wstart + p.2.2 ∧ sentWidth s.wpass ≤ p.2.2 := by decide
theorem witness_KeyOnePullsLowAtThreeAndSeven :
    ∀ i ∈ [1, 3, 8],
      let s := inWindow .plain 1 i
      s.params.valid = true ∧ ¬ TimerFires s ∧ s.params.writeEnabled = true ∧ s.wstate = .active ∧ s.wpass = .plain ∧
        s.wkey = 1 ∧ 1 ≤ i ∧ i ≤ 8 ∧ s.P.bits + 1 = s.params.wstart + i := by decide
theorem witness_PlaceholderPassLeavesTheLineHigh :
    ∀ i ∈ [1, 24],
      let s := inWindow .pass1 12 i
      ¬ TimerFires s ∧ s.params.writeEnabled = true ∧ s.wstate = .active ∧ s.wpass = .pass1 ∧ 1 ≤ i ∧ i ≤ 24 ∧
        s.P.bits + 1 = s.params.wstart + i := by decide
theorem witness_WaitIsTheOnlyClock :
    let s : State := { base with sampleDue := some 250 }
    ¬ TimerFires s ∧ (∃ due ∈ s.sampleDue, due < s.now + (251 : BitVec 24).toNat) ∧
      ∀ due ∈ s.sampleDue, s.now + (250 : BitVec 24).toNat ≤ due := by decide
theorem witness_WaitIsTheOnlyClock_others :
    (∀ delta, Instr.edge true ≠ .wait delta) ∧ ∃ t, exec (.edge true) base = .next t :=
  ⟨fun _ h => (by cases h), _, rfl⟩

/-! ## Witnesses: capture -/

theorem witness_PanelHalfSampleResult :
    let s : State := { highSample with clockHighTime := 1000 }
    TimerFires s ∧ s.clk = true ∧ s.clockHighTime ≤ s.params.gapUs := by decide

/-- The invariant holds at the sample instant of the panel half. -/
theorem highSample_inv : highSample.Inv where
  params_valid := by decide
  panel_wf := emptyBuf_wf 16
  module_wf := emptyBuf_wf 16
  t05_length := rfl
  t1B_length := rfl
  t0A_length := rfl
  tE6_20_length := rfl
  tE6_03_length := rfl
  tGen_length := rfl
  queue_le := by decide
  queue_wf := fun e h => by cases h
  queue_kept := fun e h => by cases h
  slot_wf := emptyEntry_wf 16
  panelOut_wf := emptyEntry_wf 16
  moduleOut_wf := emptyEntry_wf 16
  lastRise_le := by decide
  clockHigh_le := by decide
  lastGap_le := by decide
  doneAt_le := by decide
  alarm_le := by decide
  due_ge := by decide
  due_le := by decide
  high_released := by decide
  active_inside := by decide
  active_qualifies := by decide
  active_class := by decide
  handshake_class := by decide
  seq_le := by decide
  disabled_quiet := by decide

theorem witness_PanelHalfReadsTheBusLevel :
    highSample.Inv ∧ TimerFires highSample ∧ highSample.clk = true ∧
      highSample.clockHighTime ≤ highSample.params.gapUs := ⟨highSample_inv, by decide, by decide, by decide⟩
theorem witness_ModuleHalfSampleResult_captured :
    let s : State := { lowSample with Q := [frame05, frame05], clockHighTime := 1000 }
    TimerFires s ∧ s.clk = false ∧ s.clockHighTime ≤ s.params.gapUs ∧ s.cfgModule = true ∧
      s.Q.length < s.params.moduleSkipLevel ∧ false = (false && !s.writeLow) := by decide
theorem witness_ModuleHalfSampleResult_skipped :
    let s : State := { lowSample with Q := [frame05, frame05, frame05] }
    TimerFires s ∧ s.clk = false ∧ s.clockHighTime ≤ s.params.gapUs ∧ s.cfgModule = true ∧
      s.params.moduleSkipLevel ≤ s.Q.length := by decide
theorem witness_ModuleHalfSampleResult_off :
    let s : State := { lowSample with cfgModule := false }
    TimerFires s ∧ s.clk = false ∧ s.clockHighTime ≤ s.params.gapUs ∧ s.cfgModule = false := by decide
theorem witness_CompletionResult :
    Completes gapSample ∧ KeepsFrame true gapSample ∧ gapSample.Q.length ≠ gapSample.params.QCAP := by decide
theorem witness_FrameBytesHoldTheBitsInOrder :
    3 ≤ 3 ∧ (List.replicate 17 true).length ≤ 8 * 3 - 7 ∧ 8 * 2 + 1 ≤ (List.replicate 17 true).length := by decide
theorem witness_IncompleteByteIsRightAligned :
    3 ≤ 3 ∧ (List.replicate 16 true).length ≤ 8 * 3 - 7 ∧
      0 < (captureBits 3 (List.replicate 16 true)).sub ∧ (captureBits 3 (List.replicate 4 true)).idx = 0 := by decide
theorem witness_BitsPastCapacityAreDropped : 3 ≤ 3 ∧ (List.replicate 17 true).length = 8 * 3 - 7 ∧ [true] ≠ [] := by
  decide
theorem witness_BitCycleCapturesItsBit :
    let s : State := { base with params := { testParams with gapUs := 500 }, clockHighTime := 500 }
    s.params.sampleDelayUs = 250 ∧ 500 ≤ s.params.gapUs ∧ s.sampleDue = none ∧ s.clockHighTime ≤ s.params.gapUs := by
  decide
theorem witness_FrameNotationSendsOneFrame :
    let s : State := { base with params := { testParams with gapUs := 1499 } }
    s.params.sampleDelayUs = 250 ∧ 500 ≤ s.params.gapUs ∧ s.params.gapUs < 1500 ∧ s.sampleDue = none ∧
      s.clockHighTime ≤ s.params.gapUs ∧ s.P = emptyBuf s.params.N ∧ [true] ≠ [] := by decide

/-! ## Witnesses: the injector -/

theorem witness_WrkeyResult_accepted :
    let s : State := { base with now := 600000, wstate := .drain, doneAt := 300, lastAlarmDone := some 100 }
    ¬ TimerFires s ∧ (2 : KeyCode).toNat < 16 ∧ Ready s ∧ FloorElapsed s 2 ∧ (15 : KeyCode).toNat < 16 ∧
      FloorElapsed s 15 := by decide
theorem witness_WrkeyResult_ignored :
    let s : State := { base with now := 599999, wstate := .drain, doneAt := 300 }
    ¬ TimerFires s ∧ ¬ Ready s ∧ ¬ (16 : KeyCode).toNat < 16 := by decide
theorem witness_WrseqResult :
    let s : State := { base with now := 599000, lastAlarmDone := some 100 }
    ¬ TimerFires s ∧ Ready s ∧ FloorElapsed s 1 ∧ ¬ FloorElapsed s 2 ∧ ¬ Ready { s with wstate := .staged } ∧
      ([] : List Key) = (([16, 31] : List KeyCode).filterMap fun k =>
        if h : k.toNat < 16 then some (⟨k.toNat, h⟩ : Key) else none).take s.params.seqCap ∧
      (1 :: [2] : List Key) = (([1, 20, 2] : List KeyCode).filterMap fun k =>
        if h : k.toNat < 16 then some (⟨k.toNat, h⟩ : Key) else none).take s.params.seqCap ∧
      (2 :: [1] : List Key) = (([2, 1] : List KeyCode).filterMap fun k =>
        if h : k.toNat < 16 then some (⟨k.toNat, h⟩ : Key) else none).take s.params.seqCap := by decide
theorem witness_InjectorMovesOnlyByItsTable :
    (after (.wrkey 1) base).wstate = .staged ∧ (after (.edge false) atWindow).wstate = .active ∧
      (after (.edge false) (inWindow .plain 1 8)).wstate = .drain ∧
      (after (.edge false) (inWindow .pass1 12 24)).wstate = .wait2 ∧
      (after (.sample true) { gapSample with wstate := .wait2 }).wstate = .armed2 ∧
      (after .reset atWindow).wstate = .idle := by decide

/-! ## Witnesses: the consumer -/

theorem witness_PollpStagesAndEvaluates :
    ¬ TimerFires base ∧ Stages { base with seq := [1, 2] } 1 ∧ ∀ k, ¬ Stages base k := by decide
/-- V-POLL-4. -/
theorem witness_PollpReportsALostBus :
    let s : State := { pollState frame05 with now := 3011000, lastGap := 10 }
    ¬ TimerFires s ∧ Disconnects s ∧ ¬ Disconnects { s with now := 3010999 } := by decide
theorem witness_PollpOfAnEmptyQueue : ¬ TimerFires base ∧ ¬ Disconnects base ∧ base.Q = [] := by decide
theorem witness_PollpDropsAtTheClosedGate :
    let s : State := { pollState frame23 with gateOpen := false }
    ¬ TimerFires s ∧ ¬ Disconnects s ∧ s.Q = frame23 :: [] ∧ ¬ PassesGate s frame23 := by decide
theorem witness_PollpSuppressesRepeatedLoops_partitions :
    let e : Entry := entry16 [0xE6, 0, 0x20, 1] 18 3
    let f : Entry := entry16 [0xE6, 0, 0x03, 1] 18 3
    let s : State := { pollState e with TE6_20 := e.bytes }
    let u : State := { pollState f with TE6_03 := f.bytes }
    ¬ TimerFires s ∧ ¬ Disconnects s ∧ s.Q = e :: [] ∧ PassesGate s e ∧ RepeatsLoop s e ∧
      ¬ TimerFires u ∧ ¬ Disconnects u ∧ u.Q = f :: [] ∧ PassesGate u f ∧ RepeatsLoop u f := by decide
theorem witness_PollpSuppressesRepeatedLoops :
    let s : State := { pollState frame0A with T0A := frame0A.bytes }
    ¬ TimerFires s ∧ ¬ Disconnects s ∧ s.Q = frame0A :: [] ∧ PassesGate s frame0A ∧ RepeatsLoop s frame0A := by decide
theorem witness_PollpSuppressesRepeatedFrames :
    let s : State := { pollState frame23 with TGen := frame23.bytes }
    ¬ TimerFires s ∧ ¬ Disconnects s ∧ s.Q = frame23 :: [] ∧ PassesGate s frame23 ∧ ¬ RepeatsLoop s frame23 ∧
      s.cfgRedundant = true ∧ RepeatsGeneral s frame23 := by decide
theorem witness_PollpSurfacesASurvivingFrame :
    let s : State := { pollState frame05 with gateOpen := false }
    ¬ TimerFires s ∧ ¬ Disconnects s ∧ s.Q = frame05 :: [] ∧ PassesGate s frame05 ∧ ¬ RepeatsLoop s frame05 ∧
      ¬ (s.cfgRedundant = true ∧ RepeatsGeneral s frame05) := by decide
theorem witness_FramesSurfaceOnlyThroughTheGate :
    ¬ TimerFires (pollState frame05) ∧ ∃ t, exec .pollp (pollState frame05) = .next t ∧ t.result = some (.pollp 1) :=
  ⟨by decide, _, rfl, by decide⟩
theorem witness_PollmResult :
    ¬ TimerFires base ∧ ({ base with captured := true } : State).captured = true ∧ base.captured = false := by decide
theorem witness_StatusResult : ¬ TimerFires base := by decide
theorem witness_AckovfResult : ¬ TimerFires { base with overflow := true } := by decide
theorem witness_ConfigResult :
    ¬ TimerFires base ∧ base.polled = false ∧ ({ base with polled := true } : State).polled = true := by decide

/-! ## Witnesses: reset, the invariant, the whole-machine rules -/

theorem witness_PowerOnIsResetAtTimeZero :
    base.now = 0 ∧ base.refusals = [] ∧ base.pending = [] ∧ base.result = none ∧ base.draws = 0 := by decide
theorem witness_InvariantHoldsAtPowerOn : testParams.valid = true := by decide
theorem witness_StepKeepsTheInvariant :
    highSample.Inv ∧ ∃ t, step { highSample with pending := [0x21] } = .next t ∧ t.P.bits = 1 :=
  ⟨highSample_inv, _, rfl, by decide⟩
theorem witness_OperationsKeepParametersAndStream : ∃ t, exec .reset highSample = .next t := ⟨_, rfl⟩
theorem witness_FlagsChangeOnlyByTheirTable_capture :
    let full : State := { gapSample with Q := List.replicate 4 frame05 }
    let seen : State := { gapSample with modActivity := true, modSkipped := false }
    full.overflow = false ∧ (after (.sample true) full).overflow = true ∧
      seen.captured = false ∧ (after (.sample true) seen).captured = true ∧ (after (.sample true) seen).modActivity = false ∧
      lowSample.modActivity = false ∧ (after (.sample false) lowSample).modActivity = true ∧
      (after (.sample false) { lowSample with Q := List.replicate 3 frame05 }).modSkipped = true ∧
      (after (.sample false) { gapSample with modSkipped := true }).modSkipped = false := by decide
theorem witness_FlagsChangeOnlyByTheirTable_buffer :
    let long : State := { highSample with P := buf16 [0x05] 121 16 0 }
    let spilled : State := { gapSample with P := { buf16 [0x05] 121 16 0 with overlong := true } }
    long.P.overlong = false ∧ (after (.sample true) long).P.overlong = true ∧
      (after (.sample true) spilled).P.overlong = false ∧
      (after (.sample true) { lowSample with M := buf16 [0x05] 121 16 0 }).M.overlong = true ∧
      (after (.sample true) { gapSample with M := { buf16 [0x05] 121 16 0 with overlong := true } }).M.overlong = false ∧
      (after (.edge false) (inWindow .plain 1 3)).writeLow = true ∧
      (after (.edge true) { base with writeLow := true }).writeLow = false := by decide
theorem witness_FlagsChangeOnlyByTheirTable_consumer :
    (after .ackovf { base with overflow := true }).overflow = false ∧
      (after .pollm { base with captured := true }).captured = false ∧ (after .pollp base).connected = true ∧
      (after .pollp base).changed = true ∧ (after .pollp base).polled = true ∧
      (after .pollp { pollState frame05 with gateOpen := false }).gateOpen = true := by decide
theorem witness_QueueIsFirstInFirstOut :
    (after .pollp (pollState frame05)).Q = [] ∧ (after .reset (pollState frame05)).Q = [] ∧
      (after (.sample true) gapSample).Q = [frame05] := by decide
theorem witness_ContextsWriteTheirOwnState :
    (Instr.edge true).context = .interrupt ∧ Instr.pollp.context = .application ∧
      (∃ t, exec (.edge true) base = .next t) ∧ ∃ t, exec .pollp base = .next t :=
  ⟨rfl, rfl, ⟨_, rfl⟩, ⟨_, rfl⟩⟩
theorem witness_NothingReadsOverlong :
    let s : State := { base with P := { base.P with overlong := true } }
    forgetOverlong base = forgetOverlong s ∧ (∃ t, exec .status base = .next t) ∧ ∃ t, exec .status s = .next t :=
  ⟨rfl, ⟨_, rfl⟩, ⟨_, rfl⟩⟩
theorem witness_NothingReadsClkUnarmed :
    base.sampleDue = none ∧ (∃ t, exec .pollp base = .next t) ∧ (∀ l, Instr.pollp ≠ .edge l) ∧ Instr.pollp ≠ .reset :=
  ⟨rfl, ⟨_, rfl⟩, by decide, by decide⟩

end Sys2Proof.Tests
end

section
/-! PROOFS. What a frame buffer holds while its bits come in (20_memory.md R82 to R85). -/

namespace Sys2Proof.Machine

/-! ## Facts about CaptureBit and captureBits -/

theorem captureBits_append_singleton (n : Nat) (bs : List Bool) (b : Bool) :
    captureBits n (bs ++ [b]) = captureBit n b (captureBits n bs) := by
  simp [captureBits]

theorem captureBits_wf (n : Nat) (bits : List Bool) : (captureBits n bits).WF n := by
  induction bits using List.reverseRecOn with
  | nil => exact emptyBuf_wf n
  | append_singleton bs b ih =>
    rw [captureBits_append_singleton]
    exact captureBit_wf b ih

/-- A buffer with room left for a bit still has a byte to put it in (R84). -/
theorem FrameBuf.WF.idx_lt_of_bits_lt {n : Nat} {B : FrameBuf} (hn : 2 ≤ n) (h : B.WF n) (hb : B.bits < 8 * n - 7) :
    B.idx < n := by
  refine Nat.lt_of_le_of_ne h.idx_le fun hfull => ?_
  have hbits := h.bits_eq
  rw [hfull, h.full_sub hfull, cursorBits, if_neg (by omega), if_neg (by omega)] at hbits
  omega

/-- The bit where the byte being filled begins, and the bits already in it, make up the bits stored (R82, R84). -/
theorem FrameBuf.WF.bits_eq_start_add_sub {n : Nat} {B : FrameBuf} (h : B.WF n) (hslot : B.idx ≠ 1) :
    B.bits = (if B.idx = 0 then 0 else 8 * B.idx - 7) + B.sub := by
  rw [h.bits_eq, cursorBits, if_neg hslot]
  split_ifs <;> omega

/-- Every bit of a frame within capacity is stored (R84). -/
theorem captureBits_bits {n : Nat} (hn : 2 ≤ n) {bits : List Bool} (hcap : bits.length ≤ 8 * n - 7) :
    (captureBits n bits).bits = bits.length := by
  induction bits using List.reverseRecOn with
  | nil => rfl
  | append_singleton bs b ih =>
    rw [List.length_append, List.length_singleton] at hcap ⊢
    have hbits := ih (by omega)
    have hroom := (captureBits_wf n bs).idx_lt_of_bits_lt hn (by omega)
    rw [captureBits_append_singleton]
    rcases captureBit_cases n b (captureBits n bs) with ⟨hfull, _⟩ | ⟨_, idx, sub, e, _⟩
    · omega
    · rw [e, ← hbits]

/-! ## The byte being filled -/

theorem FrameBuf.WF.partial_upper_zero {n : Nat} {B : FrameBuf} (h : B.WF n) {j : Nat} (hj : B.sub ≤ j) :
    (byteAt B.bytes B.idx).getLsbD j = false :=
  Nat.testBit_lt_two_pow (h.partial_small.trans_le (Nat.pow_le_pow_right two_pos hj))

theorem FrameBuf.WF.byteAt_past_eq_zero {n : Nat} {B : FrameBuf} (h : B.WF n) {k : Nat} (hk : B.idx < k) :
    byteAt B.bytes k = 0 := by
  rcases Nat.lt_or_ge k n with hin | hout
  · exact h.rest_zero k hin hk
  · exact List.getD_eq_default _ _ (h.length_eq.trans_le hout)

/-- The byte being filled holds the first `sub` bits of `latest`, a list with the newest bit at its head, from bit 0
upwards (R83, R85). -/
def HoldsLatest (latest : List Bool) (B : FrameBuf) : Prop :=
  ∀ j < B.sub, (byteAt B.bytes B.idx).getLsbD j = latest.getD j false

theorem holdsLatest_of_sub_eq_zero {latest : List Bool} {B : FrameBuf} (h : B.sub = 0) : HoldsLatest latest B :=
  fun j hj => absurd hj (by omega)

/-- A captured bit goes in below the ones already there, or completes the byte (R83, R181, R182). -/
theorem captureBit_holdsLatest {n : Nat} {B : FrameBuf} {latest : List Bool} (b : Bool) (hwf : B.WF n)
    (h : HoldsLatest latest B) : HoldsLatest (b :: latest) (captureBit n b B) := by
  rcases captureBit_cases n b B with ⟨hfull, e⟩ | ⟨hroom, idx, sub, e, c⟩
  · rw [e]
    exact holdsLatest_of_sub_eq_zero (hwf.full_sub (Nat.le_antisymm hwf.idx_le hfull))
  · rw [e]
    rcases c with ⟨_, _, hsub⟩ | ⟨_, _, _, hsub⟩ | ⟨_, h7, rfl, rfl⟩
    · exact holdsLatest_of_sub_eq_zero hsub
    · exact holdsLatest_of_sub_eq_zero hsub
    · intro j (hj : j < B.sub + 1)
      have hle := hwf.sub_le
      have hlen := hwf.length_eq
      rw [byteAt_set_self _ (by omega), shiftIn_getLsbD _ _ _ (by omega)]
      cases j with
      | zero => rfl
      | succ j => exact h j (by omega)

/-- The byte being filled holds the frame's last bits, the newest at bit 0, whether or not the frame ran past its
capacity. -/
theorem captureBits_holdsLatest (n : Nat) (bits : List Bool) : HoldsLatest bits.reverse (captureBits n bits) := by
  induction bits using List.reverseRecOn with
  | nil => exact holdsLatest_of_sub_eq_zero rfl
  | append_singleton bs b ih =>
    rw [captureBits_append_singleton, List.reverse_concat]
    exact captureBit_holdsLatest b (captureBits_wf n bs) ih

/-- The same read from the byte's first bit downwards: bit `sub − 1` is the one where the byte begins (R85). -/
theorem captureBits_partial_getLsbD {n : Nat} (hn : 2 ≤ n) {bits : List Bool} (hcap : bits.length ≤ 8 * n - 7) {j : Nat}
    (hj : j < (captureBits n bits).sub) :
    (byteAt (captureBits n bits).bytes (captureBits n bits).idx).getLsbD ((captureBits n bits).sub - 1 - j) =
      bits.getD ((if (captureBits n bits).idx = 0 then 0 else 8 * (captureBits n bits).idx - 7) + j) false := by
  have hwf := captureBits_wf n bits
  have hslot : (captureBits n bits).idx ≠ 1 := fun h1 => by
    have := hwf.slot_sub h1
    omega
  have hlen := captureBits_bits hn hcap
  rw [hwf.bits_eq_start_add_sub hslot] at hlen
  rw [captureBits_holdsLatest n bits _ (by omega), List.getD_reverse _ (by omega)]
  congr 1
  omega

/-- Settles O29: the bits of the byte being filled by induction over the frame, its zeros from the buffer's
well-formedness. -/
theorem incompleteByteIsRightAligned : Obligations.IncompleteByteIsRightAligned := by
  intro n bits hn hcap
  have hwf := captureBits_wf n bits
  exact ⟨fun j hj => captureBits_partial_getLsbD (by omega) hcap hj, fun j hj => hwf.partial_upper_zero hj,
    fun k hk => hwf.byteAt_past_eq_zero hk⟩

end Sys2Proof.Machine
end

section
/-! PROOFS. What the decoder accepts, one operation and a whole stream (30_encoding.md R111 to R119), and the status
word (R134). -/

namespace Sys2Proof

/-! ## One operation -/

theorem wellFormed_wrseq_iff (ks : List KeyCode) : (Instr.wrseq ks).wellFormed = true ↔ ks.length ≤ 31 :=
  decide_eq_true_iff

/-- Everything the decoder accepts, by what the first byte says: a whole operation, a WRSEQ with its key bytes, a WAIT
with its three delay bytes (R112 to R115). -/
theorem decode_ok_cases {op : Byte} {bs rest : List Byte} {i : Instr} (h : decode (op :: bs) = .ok (i, rest)) :
    (decodeHead op = .single i ∧ bs = rest) ∨
    (∃ ks, decodeHead op = .sequence ks.length ∧ i = .wrseq ks ∧ bs = ks.map encodeKeyByte ++ rest) ∨
    (∃ t2 t1 t0, decodeHead op = .wait ∧ i = .wait (t2 ++ t1 ++ t0) ∧ bs = t2 :: t1 :: t0 :: rest) := by
  simp only [decode] at h
  cases hhead : decodeHead op with
  | single j =>
    simp only [hhead, Except.ok.injEq, Prod.mk.injEq] at h
    obtain ⟨rfl, rfl⟩ := h
    exact .inl ⟨rfl, rfl⟩
  | reserved => simp [hhead] at h
  | sequence n =>
    simp only [hhead] at h
    split at h
    · cases h
    next hlen =>
      split at h
      next ks hks =>
        obtain ⟨rfl, rfl⟩ : .wrseq ks = i ∧ bs.drop n = rest := by simpa using h
        have hmap := map_of_decodeKeys hks
        have hn : ks.length = n := by
          have := congrArg List.length hmap
          rw [List.length_map, List.length_take] at this
          omega
        exact .inr (.inl ⟨ks, by rw [hn], rfl, by rw [hmap, List.take_append_drop]⟩)
      · cases h
  | wait =>
    simp only [hhead] at h
    split at h
    next t2 t1 t0 rest' =>
      obtain ⟨rfl, rfl⟩ : .wait (t2 ++ t1 ++ t0) = i ∧ rest' = rest := by simpa using h
      exact .inr (.inr ⟨t2, t1, t0, rfl, rfl, rfl⟩)
    · cases h

/-- The word of a WAIT carries its three delay bytes, the most significant first (R114). -/
theorem encode_wait_append (t2 t1 t0 : Byte) : encode (.wait (t2 ++ t1 ++ t0)) = [0xE0, t2, t1, t0] := by
  have h2 : (t2 ++ t1 ++ t0).extractLsb' 16 8 = t2 :=
    (BitVec.extractLsb'_append_eq_of_le (by decide)).trans BitVec.extractLsb'_append_eq_left
  have h1 : (t2 ++ t1 ++ t0).extractLsb' 8 8 = t1 :=
    (BitVec.extractLsb'_append_eq_of_le (by decide)).trans BitVec.extractLsb'_append_eq_right
  have h0 : (t2 ++ t1 ++ t0).extractLsb' 0 8 = t0 := BitVec.extractLsb'_append_eq_right
  rw [encode, h2, h1, h0]

/-- The bytes an operation was read from are its own word, and the operation is well formed (R112 to R117). -/
theorem encode_of_decode {bs rest : List Byte} {i : Instr} (h : decode bs = .ok (i, rest)) :
    i.wellFormed = true ∧ bs = encode i ++ rest := by
  cases bs with
  | nil => cases h
  | cons op bs =>
    rcases decode_ok_cases h with ⟨hop, rfl⟩ | ⟨ks, hop, rfl, rfl⟩ | ⟨t2, t1, t0, hop, rfl, rfl⟩
    · obtain ⟨hword, hwf⟩ := encode_of_decodeHead hop
      exact ⟨hwf, by rw [hword, List.singleton_append]⟩
    · obtain ⟨hlen, rfl⟩ := header_of_decodeHead hop
      exact ⟨(wellFormed_wrseq_iff ks).2 hlen, rfl⟩
    · obtain rfl := wait_of_decodeHead hop
      exact ⟨rfl, by rw [encode_wait_append]; rfl⟩

/-- Every operation read shortens the stream (R115). -/
theorem length_lt_of_decode {bs rest : List Byte} {i : Instr} (h : decode bs = .ok (i, rest)) :
    rest.length < bs.length := by
  rw [(encode_of_decode h).2, List.length_append]
  have := List.length_pos_iff.2 (encode_ne_nil i)
  omega

/-! ## A whole stream -/

/-- What is left where decoding stops: nothing, or a tail whose head the decoder refuses, for the reason `e` given
(R115, R117, R119). -/
def StopsAt (e : Option DecodeError) (tail : List Byte) : Prop :=
  (e = none ∧ tail = []) ∨
    (e = some .reserved ∧ decode tail = .error .reserved) ∨
    (e = some .incomplete ∧ decode tail = .error .incomplete)

/-- `p` is a reading of the bytes `bs` as R119 describes it: the words of well-formed operations, then where decoding
stops. -/
def IsReading (bs : List Byte) (p : List Instr × Option DecodeError) : Prop :=
  ∃ tail, bs = encodeStream p.1 ++ tail ∧ (∀ i ∈ p.1, i.wellFormed = true) ∧ StopsAt p.2 tail

theorem isReading_nil : IsReading [] ([], none) :=
  ⟨[], rfl, by simp, .inl ⟨rfl, rfl⟩⟩

/-- Bytes that are refused at once are read as no operation and that refusal. -/
theorem IsReading.refusal {bs : List Byte} {e : DecodeError} (hne : bs ≠ []) (h : decode bs = .error e) :
    IsReading bs ([], some e) := by
  refine ⟨bs, rfl, by simp, .inr ?_⟩
  cases e with
  | noOperation => exact absurd ((Machine.decode_noOperation_iff bs).1 h) hne
  | reserved => exact .inl ⟨rfl, h⟩
  | incomplete => exact .inr ⟨rfl, h⟩

/-- The word of a well-formed operation before a reading adds that operation to it. -/
theorem IsReading.cons {bs : List Byte} {p : List Instr × Option DecodeError} {i : Instr} (hi : i.wellFormed = true)
    (h : IsReading bs p) : IsReading (encode i ++ bs) (i :: p.1, p.2) := by
  obtain ⟨tail, hbytes, hwf, hstop⟩ := h
  refine ⟨tail, ?_, List.forall_mem_cons.2 ⟨hi, hwf⟩, hstop⟩
  rw [hbytes, encodeStream, encodeStream, List.flatMap_cons, List.append_assoc]

/-- With fuel for every byte the decoder reads the whole stream. -/
theorem decodeStreamFuel_isReading {fuel : Nat} {bs : List Byte} (hfuel : bs.length ≤ fuel) :
    IsReading bs (decodeStreamFuel fuel bs) := by
  induction fuel generalizing bs with
  | zero =>
    obtain rfl := List.length_eq_zero_iff.1 (Nat.le_zero.1 hfuel)
    exact isReading_nil
  | succ fuel ih =>
    cases bs with
    | nil => exact isReading_nil
    | cons b bs =>
      cases hdec : decode (b :: bs) with
      | error e =>
        rw [decodeStreamFuel, hdec]
        exact .refusal (List.cons_ne_nil b bs) hdec
      | ok p =>
        obtain ⟨i, rest⟩ := p
        obtain ⟨hwf, hword⟩ := encode_of_decode hdec
        have hlt := length_lt_of_decode hdec
        rw [decodeStreamFuel, hdec, hword]
        exact (ih (by omega)).cons hwf

namespace Machine

/-- Settles O6, by induction on the decoder's fuel. -/
theorem streamIsOperationsThenAtMostOneRefusal : Obligations.StreamIsOperationsThenAtMostOneRefusal :=
  fun _ => decodeStreamFuel_isReading (Nat.le_refl _)

/-! ## The status word -/

/-- STATUS, where it is admitted, returns the status word (R159, R282). -/
theorem exec_status {s : State} (h : ¬ TimerFires s) :
    exec .status s = .next { s with result := some (.status (statusWord s)) } :=
  congrArg Host.Outcome.next (whenAdmitted_clear h)

/-- The status word holds its five flags from bit 0 up, and zeros above them: each combination of flags checked
(R134). -/
theorem statusWord_getLsbD (s : State) (j : Fin 8) :
    (statusWord s).getLsbD j = [s.overflow, s.connected, s.changed, writeReady s, s.writeLow].getD j false := by
  unfold statusWord
  generalize s.overflow = overflow, s.connected = connected, s.changed = changed, writeReady s = ready,
    s.writeLow = low
  revert overflow connected changed ready low j
  decide

/-- Settles O46, bit by bit of the status word. -/
theorem statusResult : Obligations.StatusResult := by
  intro s hclear
  have hbit := statusWord_getLsbD s
  have hready : (statusWord s).getLsbD 3 = true ↔ Ready s := by
    rw [← writeReady_iff s]
    exact Bool.eq_iff_iff.1 (hbit 3)
  exact ⟨statusWord s, exec_status hclear, hbit 0, hbit 1, hbit 2, hready, hbit 4, hbit 5, hbit 6, hbit 7⟩

end Machine
end Sys2Proof
end

section
/-! PROOFS. The line sampler (40_line_sampler.md R159 to R169): the deadline rule every operation is under, what an edge
leaves, and who moves time. -/

namespace Sys2Proof.Machine

/-! ## One operation: admitted or refused -/

/-- What an operation does where it is admitted. -/
def effect : Instr → State → State
  | .edge l => clockEdge l
  | .sample d => takeSample d
  | .wrkey k => writeKey k
  | .wrseq ks => writeSequence ks
  | .pollp => pollPanel
  | .pollm => pollModule
  | .status => readStatus
  | .ackovf => acknowledge
  | .reset => restart
  | .config m r => configure m r
  | .wait delta => passTime delta.toNat

/-- Every operation but SAMPLE and RESET is under the deadline rule (R159). -/
theorem exec_eq_whenAdmitted {i : Instr} (hreset : i ≠ .reset) (hsample : ∀ d, i ≠ .sample d) (s : State) :
    exec i s = .next (whenAdmitted (effect i) s) := by
  cases i with
  | sample d => exact absurd rfl (hsample d)
  | reset => exact absurd rfl hreset
  | edge | wrkey | wrseq | pollp | pollm | status | ackovf | config | wait => rfl

theorem exec_of_fires {i : Instr} {s : State} (hreset : i ≠ .reset) (hsample : ∀ d, i ≠ .sample d)
    (h : TimerFires s) : exec i s = .next (refuse .deadline s) := by
  rw [exec_eq_whenAdmitted hreset hsample, whenAdmitted_fires h]

theorem exec_of_clear {i : Instr} {s : State} (hreset : i ≠ .reset) (hsample : ∀ d, i ≠ .sample d)
    (h : ¬ TimerFires s) : exec i s = .next (effect i s) := by
  rw [exec_eq_whenAdmitted hreset hsample, whenAdmitted_clear h]

/-- An operation has its effect or is refused at its admission, by R159 or by SAMPLE's own rule R168. -/
theorem exec_cases (i : Instr) (s : State) :
    exec i s = .next (effect i s) ∨ ∃ r, exec i s = .next (refuse r s) := by
  cases i with
  | sample d =>
    rcases admitSample_cases (takeSample d) s with ⟨_, e⟩ | ⟨_, _, _, e⟩ | ⟨_, e⟩
    · exact .inr ⟨.noDeadline, congrArg Host.Outcome.next e⟩
    · exact .inr ⟨.early, congrArg Host.Outcome.next e⟩
    · exact .inl (congrArg Host.Outcome.next e)
  | reset => exact .inl rfl
  | edge | wrkey | wrseq | pollp | pollm | status | ackovf | config | wait =>
    by_cases h : TimerFires s
    · exact .inr ⟨.deadline, exec_of_fires nofun nofun h⟩
    · exact .inl (exec_of_clear nofun nofun h)

/-- Settles O11: the deadline rule at the sample instant. -/
theorem deadlineAdmitsOnlySampleAndReset : Obligations.DeadlineAdmitsOnlySampleAndReset :=
  fun _ _ hfires hreset hsample => exec_of_fires hreset hsample hfires

/-! ## Edges -/

@[simp] theorem injectorFalling_params (s : State) : (injectorFalling s).params = s.params := by
  rw [injectorFalling_frame]

@[simp] theorem injectorFalling_now (s : State) : (injectorFalling s).now = s.now := by
  rw [injectorFalling_frame]

@[simp] theorem injectorFalling_clk (s : State) : (injectorFalling s).clk = s.clk := by
  rw [injectorFalling_frame]

/-- A rising edge, whole (R160, R162, R164). -/
theorem risingEdge_eq (s : State) :
    risingEdge s = { s with
      clk := true
      lastRise := s.now
      writeLow := false
      sampleDue := some (s.now + s.params.sampleDelayUs) } := rfl

@[simp] theorem clockEdge_now (l : Bool) (s : State) : (clockEdge l s).now = s.now := by
  cases l <;> simp [clockEdge, risingEdge, fallingEdge]

@[simp] theorem clockEdge_clk (l : Bool) (s : State) : (clockEdge l s).clk = l := by
  cases l <;> simp [clockEdge, risingEdge, fallingEdge]

/-- Both directions end in the arming of the timer (R164). -/
@[simp] theorem clockEdge_sampleDue (l : Bool) (s : State) :
    (clockEdge l s).sampleDue = some (s.now + s.params.sampleDelayUs) := by
  cases l <;> simp [clockEdge, risingEdge, fallingEdge]

/-- EDGE, where it is admitted. -/
theorem exec_edge {s : State} (l : Bool) (h : ¬ TimerFires s) : exec (.edge l) s = .next (clockEdge l s) :=
  exec_of_clear nofun nofun h

/-- Settles O15: the rising handler, whatever level stood in `clk`. -/
theorem risingEdgeResult : Obligations.RisingEdgeResult := by
  intro s hclear
  rw [exec_edge true hclear]
  exact congrArg Host.Outcome.next (risingEdge_eq s)

/-- Settles O16, from the three fields both handlers write or keep alike. -/
theorem everyEdgeArmsTheTimer : Obligations.EveryEdgeArmsTheTimer :=
  fun s l hclear =>
    ⟨clockEdge l s, exec_edge l hclear, clockEdge_sampleDue l s, clockEdge_clk l s, clockEdge_now l s⟩

/-! ## Time -/

@[simp] theorem writeKey_now (k : KeyCode) (s : State) : (writeKey k s).now = s.now := by
  rw [writeKey_frame]

@[simp] theorem writeSequence_now (ks : List KeyCode) (s : State) : (writeSequence ks s).now = s.now := by
  rw [writeSequence_frame]

/-- A sample and the completion it may lead to take no time (R180, R196). -/
@[simp] theorem takeSample_now (d : Bool) (s : State) : (takeSample d s).now = s.now := by
  have hhandle : (handleSample d s).now = s.now := by rw [handleSample_eq]
  unfold takeSample
  split
  · rw [complete_eq]
    exact hhandle
  · exact hhandle

@[simp] theorem pollBegun_now (s : State) : (pollBegun s).now = s.now := by
  rw [pollBegun_frame]

@[simp] theorem dropFrame_now (s : State) : (dropFrame s).now = s.now := rfl

@[simp] theorem surfaceFrame_now (e : Entry) (s : State) : (surfaceFrame e s).now = s.now := rfl

@[simp] theorem loopRemembers_now (e : Entry) (s : State) : (loopRemembers e s).now = s.now := by
  rw [loopRemembers_eq]

/-- A dequeued frame is dropped or surfaced, and neither takes time. -/
@[simp] theorem consumeFrame_now (e : Entry) (s : State) : (consumeFrame e s).now = s.now := by
  rcases consumeFrame_cases e s with ⟨_, h⟩ | ⟨_, _, h⟩ | ⟨_, _, _, _, h⟩ | ⟨_, _, _, h⟩ <;> simp [h]

@[simp] theorem pollPanel_now (s : State) : (pollPanel s).now = s.now := by
  rcases pollPanel_cases s with ⟨_, h⟩ | ⟨_, _, h⟩ | ⟨_, _, _, _, h⟩ <;> simp [h]

@[simp] theorem pollModule_now (s : State) : (pollModule s).now = s.now := by
  unfold pollModule
  split <;> rfl

@[simp] theorem configure_now (m r : Bool) (s : State) : (configure m r s).now = s.now := by
  unfold configure
  split <;> rfl

/-- WAIT is the only operation whose effect changes the time (R166). -/
theorem effect_now {i : Instr} (hwait : ∀ delta, i ≠ .wait delta) (s : State) : (effect i s).now = s.now := by
  cases i with
  | edge l => exact clockEdge_now l s
  | sample d => exact takeSample_now d s
  | wrkey k => exact writeKey_now k s
  | wrseq ks => exact writeSequence_now ks s
  | pollp => exact pollPanel_now s
  | pollm => exact pollModule_now s
  | config m r => exact configure_now m r s
  | wait delta => exact absurd rfl (hwait delta)
  | status | ackovf | reset => rfl

theorem now_eq_of_exec {i : Instr} {s t : State} (hwait : ∀ delta, i ≠ .wait delta) (h : exec i s = .next t) :
    t.now = s.now := by
  rcases exec_cases i s with e | ⟨r, e⟩
  · cases e.symm.trans h
    exact effect_now hwait s
  · cases e.symm.trans h
    exact refuse_now r s

/-- A WAIT that would pass an armed deadline is refused (R166). -/
theorem passTime_of_crossing {delta : Nat} {s : State} (h : ∃ due ∈ s.sampleDue, due < s.now + delta) :
    passTime delta s = refuse .deadlineCrossed s := by
  obtain ⟨due, hdue, hlt⟩ := h
  rcases passTime_cases delta s with ⟨_, _, _, e⟩ | ⟨hwithin, _⟩
  · exact e
  · exact absurd (hwithin due hdue) (by omega)

/-- Every other WAIT moves time, up to the deadline itself at most (R166, R167). -/
theorem passTime_of_within {delta : Nat} {s : State} (h : ∀ due ∈ s.sampleDue, s.now + delta ≤ due) :
    passTime delta s = { s with now := s.now + delta } := by
  rcases passTime_cases delta s with ⟨due, hdue, hlt, _⟩ | ⟨_, e⟩
  · exact absurd (h due hdue) (by omega)
  · exact e

/-- WAIT, where the deadline rule admits it. -/
theorem exec_wait {s : State} (delta : BitVec 24) (h : ¬ TimerFires s) :
    exec (.wait delta) s = .next (passTime delta.toNat s) :=
  exec_of_clear nofun nofun h

/-- Settles O23: WAIT by its two admission cases, every other operation by its effect's frame. -/
theorem waitIsTheOnlyClock : Obligations.WaitIsTheOnlyClock := by
  refine ⟨fun s delta hclear => ?_, fun s t i hwait h => now_eq_of_exec hwait h⟩
  rw [exec_wait delta hclear]
  exact ⟨fun hcross => congrArg Host.Outcome.next (passTime_of_crossing hcross),
    fun hwithin => congrArg Host.Outcome.next (passTime_of_within hwithin)⟩

end Sys2Proof.Machine
end

section
/-! PROOFS. The capture side (41_bit_capture.md R180 to R204): what a SAMPLE leaves, with a gap and without one, and the
count law of the frames. -/

namespace Sys2Proof.Machine

/-! ## One SAMPLE -/

/-- SAMPLE, at its deadline (R168). -/
theorem exec_sample {s : State} (d : Bool) (h : TimerFires s) : exec (.sample d) s = .next (takeSample d s) :=
  congrArg Host.Outcome.next (admitSample_fires h)

/-- At any other time SAMPLE is refused (R168). -/
theorem exec_sample_of_not_fires {s : State} (d : Bool) (h : ¬ TimerFires s) :
    ∃ r, exec (.sample d) s = .next (refuse r s) := by
  rcases admitSample_cases (takeSample d) s with ⟨_, e⟩ | ⟨_, _, _, e⟩ | ⟨hfires, _⟩
  · exact ⟨.noDeadline, congrArg Host.Outcome.next e⟩
  · exact ⟨.early, congrArg Host.Outcome.next e⟩
  · exact absurd hfires h

/-- The gap test reads nothing the sample's own handling writes (R192). -/
theorem gapSeen_handleSample (d : Bool) (s : State) : gapSeen (handleSample d s) = gapSeen s := by
  rw [handleSample_eq]
  rfl

theorem takeSample_of_gap {s : State} (d : Bool) (h : s.params.gapUs < s.clockHighTime) :
    takeSample d s = complete (handleSample d s) := by
  rw [takeSample, gapSeen_handleSample, if_pos ((gapSeen_iff s).2 h)]

theorem takeSample_of_no_gap {s : State} (d : Bool) (h : s.clockHighTime ≤ s.params.gapUs) :
    takeSample d s = handleSample d s := by
  rw [takeSample, gapSeen_handleSample, if_neg (mt (gapSeen_iff s).1 (Nat.not_lt.2 h))]

/-! ## The module half -/

/-- With the clock low a sample goes to the module half, at the level the block reads (R180, R185, R189). -/
theorem handleSample_of_low {s : State} (d : Bool) (h : s.clk = false) :
    handleSample d s = captureModule (d && !s.writeLow) { s with sampleDue := none } := by
  rw [handleSample, if_neg (by simp [h])]
  rfl

/-- A captured module bit marks activity when it is low (R190, R191). -/
theorem captureModule_of_room {s : State} (line : Bool) (hon : s.cfgModule = true)
    (hroom : s.Q.length < s.params.moduleSkipLevel) :
    captureModule line s = { s with
      M := captureBit s.params.N line s.M
      modActivity := if line = false then true else s.modActivity } := by
  rw [captureModule, if_pos hon, if_pos hroom]
  cases line <;> simp

/-- At or above the skip level a module bit is skipped (R190). -/
theorem captureModule_of_backpressure {s : State} (line : Bool) (hon : s.cfgModule = true)
    (hfull : s.params.moduleSkipLevel ≤ s.Q.length) : captureModule line s = { s with modSkipped := true } := by
  rw [captureModule, if_pos hon, if_neg (Nat.not_lt.2 hfull)]

/-- With module processing off a module bit is dropped (R185). -/
theorem captureModule_of_off {s : State} (line : Bool) (hoff : s.cfgModule = false) : captureModule line s = s := by
  rw [captureModule, if_neg (by simp [hoff])]

/-- Settles O26, from the three things the module half can do with a bit. -/
theorem moduleHalfSampleResult : Obligations.ModuleHalfSampleResult := by
  rintro s d _ hfires hlow hnogap rfl
  rw [exec_sample d hfires, takeSample_of_no_gap d hnogap, handleSample_of_low d hlow]
  refine ⟨fun hon hroom => ?_, fun hon hfull => ?_, fun hoff => ?_⟩
  · exact congrArg Host.Outcome.next (captureModule_of_room _ hon hroom)
  · exact congrArg Host.Outcome.next (captureModule_of_backpressure _ hon hfull)
  · exact congrArg Host.Outcome.next (captureModule_of_off _ hoff)

/-! ## A completion -/

/-- What a completion does to the injector: a first pass, ended or cut off, waits for its second, and any other
pass ends with its key (R245). -/
theorem injectorGap_eq (s : State) :
    injectorGap s = { s with
      wstate := if s.wstate = .wait2 ∨ (s.wstate = .active ∧ s.wpass = .pass1) then .armed2
        else if s.wstate = .active then .drain else s.wstate
      doneAt := if s.wstate = .active ∧ s.wpass ≠ .pass1 then s.now / 1000 else s.doneAt
      lastAlarmDone := if s.wstate = .active ∧ s.wpass ≠ .pass1 ∧ s.wkey ∈ s.params.alarmKeys
        then some (s.now / 1000) else s.lastAlarmDone } := by
  rw [injectorGap]
  by_cases hwait : s.wstate = .wait2
  · simp [hwait]
  · by_cases hactive : s.wstate = .active
    · by_cases hpass : s.wpass = .pass1
      · simp [hactive, hpass]
      · simp [hactive, hpass, finishKey_eq]
    · simp [hwait, hactive]

/-- A sticky flag, as the machine computes it and as a rule states it. -/
theorem or_decide_eq_ite (b : Bool) (p : Prop) [Decidable p] : (b || decide p) = if p then true else b := by
  by_cases h : p <;> simp [h]

/-- Settles O27: the completion sequence on the scratch that its own sample leaves. -/
theorem completionResult : Obligations.CompletionResult := by
  rintro s d ⟨hfires, hgap⟩
  rw [exec_sample d hfires, takeSample_of_gap d hgap, complete_eq, injectorGap_eq, handleSample_eq]
  simp only [or_decide_eq_ite, KeepsFrame, RepeatsStatus, not_or]

/-! ## The queue -/

@[simp] theorem clockEdge_Q (l : Bool) (s : State) : (clockEdge l s).Q = s.Q := by
  cases l
  · change (injectorFalling _).Q = _
    rw [injectorFalling_frame]
  · rfl

@[simp] theorem passTime_Q (delta : Nat) (s : State) : (passTime delta s).Q = s.Q := by
  rcases passTime_cases delta s with ⟨_, _, _, e⟩ | ⟨_, e⟩
  · rw [e, refuse_Q]
  · rw [e]

@[simp] theorem writeKey_Q (k : KeyCode) (s : State) : (writeKey k s).Q = s.Q := by
  rw [writeKey_frame]

@[simp] theorem writeSequence_Q (ks : List KeyCode) (s : State) : (writeSequence ks s).Q = s.Q := by
  rw [writeSequence_frame]

@[simp] theorem pollModule_Q (s : State) : (pollModule s).Q = s.Q := by
  unfold pollModule
  split <;> rfl

@[simp] theorem configure_Q (m r : Bool) (s : State) : (configure m r s).Q = s.Q := by
  unfold configure
  split <;> rfl

@[simp] theorem pollBegun_Q (s : State) : (pollBegun s).Q = s.Q := by
  rw [pollBegun_frame]

@[simp] theorem dropFrame_Q (s : State) : (dropFrame s).Q = s.Q := rfl

@[simp] theorem surfaceFrame_Q (e : Entry) (s : State) : (surfaceFrame e s).Q = s.Q := rfl

@[simp] theorem loopRemembers_Q (e : Entry) (s : State) : (loopRemembers e s).Q = s.Q := by
  rw [loopRemembers_eq]

/-- What becomes of a dequeued frame no longer concerns the queue. -/
@[simp] theorem consumeFrame_Q (e : Entry) (s : State) : (consumeFrame e s).Q = s.Q := by
  rcases consumeFrame_cases e s with ⟨_, h⟩ | ⟨_, _, h⟩ | ⟨_, _, _, _, h⟩ | ⟨_, _, _, h⟩ <;> simp [h]

/-- A poll takes at most the oldest frame (R88, R265). -/
theorem pollPanel_Q_suffix (s : State) : (pollPanel s).Q <:+ s.Q := by
  rcases pollPanel_cases s with ⟨_, h⟩ | ⟨_, _, h⟩ | ⟨_, e, rest, hQ, h⟩
  · simp [h]
  · simp [h]
  · simp [h, hQ]

/-- No operation but SAMPLE adds a frame: what it leaves of the queue is a tail of it (R88). -/
theorem effect_Q_suffix {i : Instr} (hsample : ∀ d, i ≠ .sample d) (s : State) : (effect i s).Q <:+ s.Q := by
  cases i with
  | sample d => exact absurd rfl (hsample d)
  | edge l => exact (clockEdge_Q l s).symm ▸ List.suffix_rfl
  | wrkey k => exact (writeKey_Q k s).symm ▸ List.suffix_rfl
  | wrseq ks => exact (writeSequence_Q ks s).symm ▸ List.suffix_rfl
  | pollp => exact pollPanel_Q_suffix s
  | pollm => exact (pollModule_Q s).symm ▸ List.suffix_rfl
  | config m r => exact (configure_Q m r s).symm ▸ List.suffix_rfl
  | wait delta => exact (passTime_Q delta.toNat s).symm ▸ List.suffix_rfl
  | status | ackovf => exact List.suffix_rfl
  | reset => exact List.nil_suffix

theorem queue_suffix_of_exec {i : Instr} {s t : State} (hsample : ∀ d, i ≠ .sample d) (h : exec i s = .next t) :
    t.Q <:+ s.Q := by
  rcases exec_cases i s with e | ⟨r, e⟩
  · cases e.symm.trans h
    exact effect_Q_suffix hsample s
  · cases e.symm.trans h
    exact List.suffix_rfl

/-- A SAMPLE that completes no frame, refused or with no gap in it, leaves the queue (R168, R192). -/
theorem exec_sample_Q_of_not_completes {d : Bool} {s t : State} (hc : ¬ Completes s)
    (h : exec (.sample d) s = .next t) : t.Q = s.Q := by
  by_cases hfires : TimerFires s
  · have hnogap : s.clockHighTime ≤ s.params.gapUs := Nat.not_lt.1 fun hgap => hc ⟨hfires, hgap⟩
    rw [exec_sample d hfires, takeSample_of_no_gap d hnogap, handleSample_eq] at h
    cases h
    rfl
  · obtain ⟨r, e⟩ := exec_sample_of_not_fires d hfires
    cases e.symm.trans h
    exact refuse_Q r s

/-- A SAMPLE enqueues a frame exactly where it completes one, keeps it and finds room for it (R198, R199). -/
theorem queue_grows_iff_of_exec_sample {d : Bool} {s t : State} (h : exec (.sample d) s = .next t) :
    s.Q.length < t.Q.length ↔ Completes s ∧ KeepsFrame d s ∧ ¬ s.Q.length = s.params.QCAP := by
  by_cases hc : Completes s
  · cases (completionResult s d hc).symm.trans h
    by_cases hkept : KeepsFrame d s ∧ ¬ s.Q.length = s.params.QCAP
    · simp only [if_pos hkept, List.length_append, List.length_singleton, Nat.lt_succ_self, true_iff]
      exact ⟨hc, hkept⟩
    · simp only [if_neg hkept, Nat.lt_irrefl, false_iff]
      exact fun hgrow => hkept hgrow.2
  · rw [exec_sample_Q_of_not_completes hc h]
    exact iff_of_false (Nat.lt_irrefl _) fun hgrow => hc hgrow.1

/-! ## The count law -/

/-- The balance of R204. -/
def Tally.Balanced (c : Tally) : Prop := c.completions = c.enqueued + c.short + c.redundant + c.full

theorem tally_cons {i : Instr} {s t : State} (is : List Instr) (h : exec i s = .next t) :
    tally (i :: is) s = (tally is t).add i s t := by
  rw [tally, h]

/-- An operation that is no SAMPLE counts nothing. -/
theorem Tally.add_eq_self {i : Instr} {s t : State} (c : Tally) (hsample : ∀ d, i ≠ .sample d)
    (h : exec i s = .next t) : c.add i s t = c := by
  have hshrink := (queue_suffix_of_exec hsample h).length_le
  cases i with
  | sample d => exact absurd rfl (hsample d)
  | edge | wrkey | wrseq | pollp | pollm | status | ackovf | reset | config | wait =>
    simp only [Tally.add, Nat.not_lt.2 hshrink, if_false, Nat.add_zero]

/-- Each completion has exactly one of four fates: enqueued, too short, redundant, or dropped at a full queue. -/
theorem completion_eq_sum_of_fates {completes short redundant kept full : Prop} [Decidable completes] [Decidable short]
    [Decidable redundant] [Decidable kept] [Decidable full] (hkept : kept ↔ ¬ short ∧ ¬ redundant) :
    (if completes then 1 else 0) =
      (if completes ∧ kept ∧ ¬ full then 1 else 0) + (if completes ∧ short then 1 else 0) +
        (if completes ∧ ¬ short ∧ redundant then 1 else 0) + (if completes ∧ kept ∧ full then 1 else 0) := by
  by_cases hc : completes
  · by_cases hs : short
    · simp [hc, hs, hkept]
    · by_cases hr : redundant
      · simp [hc, hs, hr, hkept]
      · by_cases hf : full <;> simp [hc, hs, hr, hf, hkept]
  · simp [hc]

/-- A SAMPLE adds a completion and its one fate, or nothing (R204). -/
theorem Tally.Balanced.add_sample {c : Tally} {d : Bool} {s t : State} (hc : c.Balanced)
    (h : exec (.sample d) s = .next t) : (c.add (.sample d) s t).Balanced := by
  have hfates := completion_eq_sum_of_fates (completes := Completes s) (full := s.Q.length = s.params.QCAP)
    (Iff.rfl : KeepsFrame d s ↔ _)
  simp only [Tally.Balanced, Tally.add, queue_grows_iff_of_exec_sample h] at hc ⊢
  omega

theorem Tally.Balanced.add {c : Tally} {i : Instr} {s t : State} (hc : c.Balanced) (h : exec i s = .next t) :
    (c.add i s t).Balanced := by
  by_cases hsample : ∃ d, i = .sample d
  · obtain ⟨d, rfl⟩ := hsample
    exact hc.add_sample h
  · rw [Tally.add_eq_self c (fun d e => hsample ⟨d, e⟩) h]
    exact hc

/-- Every operation answers a next state: its effect, or the record of its refusal (R300, R306). -/
theorem exists_next_of_exec (i : Instr) (s : State) : ∃ t, exec i s = .next t := by
  rcases exec_cases i s with e | ⟨r, e⟩
  · exact ⟨_, e⟩
  · exact ⟨_, e⟩

/-- Settles O31: every operation keeps the balance, by induction on the list of operations. -/
theorem enqueuedFramesCountLaw : Obligations.EnqueuedFramesCountLaw := by
  intro is
  induction is with
  | nil => exact fun _ => rfl
  | cons i is ih =>
    intro s
    obtain ⟨t, ht⟩ := exists_next_of_exec i s
    rw [tally_cons is ht]
    exact Tally.Balanced.add (ih t) ht

end Sys2Proof.Machine
end

section
/-! PROOFS. The write injector's requests (42_write_injector.md R230 to R235): what WRKEY and WRSEQ stage, and when they
change nothing. -/

namespace Sys2Proof.Machine

/-! ## WRKEY -/

/-- WRKEY, where the deadline rule admits it (R159, R230). -/
theorem exec_wrkey {s : State} (k : KeyCode) (h : ¬ TimerFires s) : exec (.wrkey k) s = .next (writeKey k s) :=
  exec_of_clear nofun nofun h

/-- Settles O34, by the two answers WRKEY can give. -/
theorem wrkeyResult : Obligations.WrkeyResult := by
  intro s k hclear
  rw [exec_wrkey k hclear]
  exact ⟨fun hvalid hready hfloor => congrArg Host.Outcome.next (writeKey_accepts hvalid hready hfloor),
    fun hrefused => congrArg Host.Outcome.next (writeKey_ignores fun ⟨hvalid, hboth⟩ => hrefused hvalid hboth)⟩

/-! ## The pending sequence -/

/-- The next key of a pending sequence is staged where the block is ready and the key's floor has elapsed (R235). -/
theorem seqAdvance_of_stages {s : State} {k : Key} {rest : List Key} (hseq : s.seq = k :: rest) (hready : Ready s)
    (hfloor : FloorElapsed s k) : seqAdvance s = { s with seq := rest, wkey := k, wstate := .staged } := by
  rcases seqAdvance_cases s with ⟨k', rest', hseq', _, _, e⟩ | ⟨hnone, _⟩
  · obtain ⟨rfl, rfl⟩ := List.cons.inj (hseq.symm.trans hseq')
    exact e
  · exact absurd ⟨by rw [hseq, List.head?_cons], hready, hfloor⟩ (hnone k)

/-- With no key to stage the sequence stays as it is (R235). -/
theorem seqAdvance_of_not_stages {s : State} (h : ∀ k, ¬ Stages s k) : seqAdvance s = s := by
  rcases seqAdvance_cases s with ⟨k, rest, hseq, hready, hfloor, _⟩ | ⟨_, e⟩
  · exact absurd ⟨by rw [hseq, List.head?_cons], hready, hfloor⟩ (h k)
  · exact e

/-! ## WRSEQ -/

/-- WRSEQ, where the deadline rule admits it (R159, R233). -/
theorem exec_wrseq {s : State} (ks : List KeyCode) (h : ¬ TimerFires s) :
    exec (.wrseq ks) s = .next (writeSequence ks s) :=
  exec_of_clear nofun nofun h

/-- A ready block takes the request's valid keys for its pending sequence, whatever was pending (R233). -/
theorem writeSequence_of_ready {s : State} (ks : List KeyCode) (h : Ready s) :
    writeSequence ks s = seqAdvance { s with seq := sequenceKeys s.params ks } := by
  rw [writeSequence, if_pos h.1, if_pos ((writeReady_iff s).2 h)]

theorem writeSequence_of_not_ready {s : State} (ks : List KeyCode) (h : ¬ Ready s) : writeSequence ks s = s := by
  rw [writeSequence, if_neg (mt (writeReady_iff s).1 h), ite_self]

/-- Settles O35: a ready block advances the sequence it has just taken, which has no key, a key that may go now, or a
key that waits for its floor. -/
theorem wrseqResult : Obligations.WrseqResult := by
  intro s ks keys hclear hkeys
  rw [exec_wrseq ks hclear]
  have htaken (hready : Ready s) : writeSequence ks s = seqAdvance { s with seq := keys } := by
    rw [hkeys]
    exact writeSequence_of_ready ks hready
  refine ⟨?empty, ?staged, ?waiting, ?notReady⟩
  case empty =>
    rintro hready rfl
    exact congrArg Host.Outcome.next ((htaken hready).trans (seqAdvance_of_not_stages nofun))
  case staged =>
    rintro k rest hready rfl hfloor
    exact congrArg Host.Outcome.next ((htaken hready).trans (seqAdvance_of_stages rfl hready hfloor))
  case waiting =>
    rintro k rest hready rfl hwait
    refine congrArg Host.Outcome.next ((htaken hready).trans (seqAdvance_of_not_stages ?_))
    rintro _ ⟨hhead, _, hfloor⟩
    cases hhead
    exact hwait hfloor
  case notReady =>
    exact fun hready => congrArg Host.Outcome.next (writeSequence_of_not_ready ks hready)

end Sys2Proof.Machine
end

section
/-! PROOFS. The application's entry points (43_consumer.md R260 to R290): what a poll stages and evaluates, what it
answers on an empty queue, and the whole effect of POLLM, ACKOVF and CONFIG. -/

namespace Sys2Proof.Machine

/-! ## What a poll writes before it looks at the queue -/

@[simp] theorem pollBegun_polled (s : State) : (pollBegun s).polled = true := by
  rw [pollBegun_frame]

/-- The liveness test, inclusive at CONNECT_MS (R262). -/
@[simp] theorem pollBegun_connected (s : State) :
    (pollBegun s).connected = decide (s.now / 1000 - s.lastGap ≤ s.params.connectMs) := by
  rw [pollBegun_frame]

/-- `changed` is set by a transition of either direction, and by nothing else (R262). -/
theorem pollBegun_changed_iff (s : State) : (pollBegun s).changed = true ↔ (pollBegun s).connected ≠ s.connected := by
  rw [pollBegun_frame]
  exact bne_iff_ne

/-- A poll that can stage a key takes it from the head of the sequence (R261, R235). -/
theorem pollBegun_of_stages {s : State} {k : Key} (h : Stages s k) :
    pollBegun s = updateLiveness { s with polled := true, seq := s.seq.tail, wkey := k, wstate := .staged } := by
  obtain ⟨hhead, hready, hfloor⟩ := h
  have hseq : s.seq = k :: s.seq.tail := (List.cons_head?_tail hhead).symm
  have hstage := seqAdvance_of_stages (s := { s with polled := true }) hseq hready hfloor
  rw [← updateLiveness_seqAdvance, hstage]

/-- With no key to stage a poll leaves the injector (R235). -/
theorem pollBegun_of_not_stages {s : State} (h : ∀ k, ¬ Stages s k) :
    pollBegun s = updateLiveness { s with polled := true } := by
  rw [← updateLiveness_seqAdvance, seqAdvance_of_not_stages (s := { s with polled := true }) h]

/-! ## What a poll may write after that -/

/-- A dequeued frame reaches the gate, the consumption trackers, `panelOut` and the answer, and nothing else
(R266 to R273). -/
theorem consumeFrame_frame (e : Entry) (s : State) :
    consumeFrame e s = { s with
      gateOpen := (consumeFrame e s).gateOpen
      T0A := (consumeFrame e s).T0A
      TE6_20 := (consumeFrame e s).TE6_20
      TE6_03 := (consumeFrame e s).TE6_03
      TGen := (consumeFrame e s).TGen
      panelOut := (consumeFrame e s).panelOut
      draws := (consumeFrame e s).draws
      result := (consumeFrame e s).result } := by
  rcases consumeFrame_cases e s with ⟨_, h⟩ | ⟨_, _, h⟩ | ⟨_, _, _, _, h⟩ | ⟨_, _, _, h⟩
  case inl | inr.inl =>
    rw [h]
    rfl
  case inr.inr.inl | inr.inr.inr =>
    rw [h, loopRemembers_eq]
    rfl

/-- After its staging and its liveness test a poll writes only the queue and what a dequeued frame reaches (R260). -/
theorem pollPanel_frame (s : State) :
    pollPanel s = { pollBegun s with
      Q := (pollPanel s).Q
      gateOpen := (pollPanel s).gateOpen
      T0A := (pollPanel s).T0A
      TE6_20 := (pollPanel s).TE6_20
      TE6_03 := (pollPanel s).TE6_03
      TGen := (pollPanel s).TGen
      panelOut := (pollPanel s).panelOut
      draws := (pollPanel s).draws
      result := (pollPanel s).result } := by
  rcases pollPanel_cases s with ⟨_, h⟩ | ⟨_, _, h⟩ | ⟨_, e, rest, _, h⟩
  case inl | inr.inl =>
    rw [h]
    rfl
  case inr.inr =>
    rw [h, consumeFrame_frame]

@[simp] theorem pollPanel_polled (s : State) : (pollPanel s).polled = true := by
  rw [pollPanel_frame]
  exact pollBegun_polled s

@[simp] theorem pollPanel_connected (s : State) : (pollPanel s).connected = (pollBegun s).connected := by
  rw [pollPanel_frame]

@[simp] theorem pollPanel_changed (s : State) : (pollPanel s).changed = (pollBegun s).changed := by
  rw [pollPanel_frame]

@[simp] theorem pollPanel_wkey (s : State) : (pollPanel s).wkey = (pollBegun s).wkey := by
  rw [pollPanel_frame]

@[simp] theorem pollPanel_seq (s : State) : (pollPanel s).seq = (pollBegun s).seq := by
  rw [pollPanel_frame]

@[simp] theorem pollPanel_wstate (s : State) : (pollPanel s).wstate = (pollBegun s).wstate := by
  rw [pollPanel_frame]

/-! ## POLLP -/

/-- POLLP, where the deadline rule admits it (R159, R260). -/
theorem exec_pollp {s : State} (h : ¬ TimerFires s) : exec .pollp s = .next (pollPanel s) :=
  exec_of_clear nofun nofun h

/-- A poll that is no disconnect poll answers by its transition alone where no frame is queued (R264). -/
theorem pollPanel_of_empty_queue {s : State} (hlive : ¬ Disconnects s) (hempty : s.Q = []) :
    pollPanel s = returns (emptyHanded (pollBegun s)) (pollBegun s) := by
  rcases pollPanel_cases s with ⟨hlost, _⟩ | ⟨_, _, e⟩ | ⟨_, _, _, hQ, _⟩
  · exact absurd hlost hlive
  · exact e
  · exact absurd (hQ.symm.trans hempty) (List.cons_ne_nil _ _)

/-- Settles O37: what the poll has written before the queue stands in its result, and that part either stages the next
key or leaves the injector. -/
theorem pollpStagesAndEvaluates : Obligations.PollpStagesAndEvaluates := by
  intro s hclear
  refine ⟨pollPanel s, exec_pollp hclear, pollPanel_polled s, ?connected, ?changed, ?staged, ?unstaged⟩
  case connected => rw [pollPanel_connected, pollBegun_connected]
  case changed =>
    rw [pollPanel_changed, pollPanel_connected]
    exact pollBegun_changed_iff s
  case staged =>
    intro k hstages
    rw [pollPanel_wkey, pollPanel_seq, pollPanel_wstate, pollBegun_of_stages hstages]
    exact ⟨rfl, rfl, rfl⟩
  case unstaged =>
    intro hnone
    rw [pollPanel_wkey, pollPanel_seq, pollPanel_wstate, pollBegun_of_not_stages hnone]
    exact ⟨rfl, rfl, rfl⟩

/-- Settles O39: the empty-queue branch of the poll, whole. -/
theorem pollpOfAnEmptyQueue : Obligations.PollpOfAnEmptyQueue := by
  intro s hclear hlive hempty
  rw [exec_pollp hclear]
  exact congrArg Host.Outcome.next (pollPanel_of_empty_queue hlive hempty)

/-! ## POLLM -/

/-- POLLM, where the deadline rule admits it (R159, R280). -/
theorem exec_pollm {s : State} (h : ¬ TimerFires s) : exec .pollm s = .next (pollModule s) :=
  exec_of_clear nofun nofun h

/-- An unread module frame is handed out and is then read (R280). -/
theorem pollModule_of_captured {s : State} (h : s.captured = true) :
    pollModule s = { s with
      polled := true, moduleOut := s.slot, captured := false, result := some (.pollm 1) } := by
  rw [pollModule, if_pos h]
  rfl

/-- With no unread module frame POLLM answers 0 (R280). -/
theorem pollModule_of_not_captured {s : State} (h : s.captured = false) :
    pollModule s = { s with polled := true, result := some (.pollm 0) } := by
  rw [pollModule, if_neg (Bool.eq_false_iff.1 h)]
  rfl

/-- Settles O45, by whether a module frame is unread. -/
theorem pollmResult : Obligations.PollmResult := by
  intro s hclear
  rw [exec_pollm hclear]
  exact ⟨fun hunread => congrArg Host.Outcome.next (pollModule_of_captured hunread),
    fun hread => congrArg Host.Outcome.next (pollModule_of_not_captured hread)⟩

/-! ## ACKOVF -/

/-- Settles O47: where the deadline rule admits ACKOVF (R159) its effect is the cleared flag. -/
theorem ackovfResult : Obligations.AckovfResult :=
  fun _ hclear => exec_of_clear nofun nofun hclear

/-! ## CONFIG -/

/-- CONFIG, where the deadline rule admits it (R159, R290). -/
theorem exec_config {s : State} (m r : Bool) (h : ¬ TimerFires s) :
    exec (.config m r) s = .next (configure m r s) :=
  exec_of_clear nofun nofun h

/-- Before the first poll both switches are set (R290). -/
theorem configure_of_not_polled {s : State} (m r : Bool) (h : s.polled = false) :
    configure m r s = { s with cfgModule := m, cfgRedundant := r } := by
  rw [configure, if_neg (Bool.eq_false_iff.1 h)]

/-- After the first poll the switches are fixed (R290). -/
theorem configure_of_polled {s : State} (m r : Bool) (h : s.polled = true) :
    configure m r s = refuse .configAfterPoll s := by
  rw [configure, if_pos h]

/-- Settles O48, by whether the block has been polled. -/
theorem configResult : Obligations.ConfigResult := by
  intro s m r hclear
  rw [exec_config m r hclear]
  exact ⟨fun hunpolled => congrArg Host.Outcome.next (configure_of_not_polled m r hunpolled),
    fun hpolled => congrArg Host.Outcome.next (configure_of_polled m r hpolled)⟩

end Sys2Proof.Machine
end

section
/-! PROOFS. RESET (70_reset_and_hazards.md section 1). -/

namespace Sys2Proof.Machine

/-- RESET is under no admission, the deadline rule's neither: from every state it restarts the block (R330). -/
theorem exec_reset (s : State) : exec .reset s = .next (restart s) := rfl

/-- Settles O49: the restart, with the clock level of power-on and the model's own fields as they were. -/
theorem resetResult : Obligations.ResetResult :=
  fun s => ⟨(State.powerOn s.params).clk, s.pending, s.result, s.draws, exec_reset s⟩

end Sys2Proof.Machine
end

section
/-! PROOFS. The decoder against the encoder, one operation (30_encoding.md R111 to R117). -/

namespace Sys2Proof

/-! ## What a first byte says -/

/-- A first byte that is a whole operation is read alone (R112). -/
theorem decode_of_single {op : Byte} {i : Instr} (h : decodeHead op = .single i) (rest : List Byte) :
    decode (op :: rest) = .ok (i, rest) := by
  simp only [decode, h]

/-- A reserved first byte is refused, whatever follows it (R117). -/
theorem decode_of_reserved {op : Byte} (h : decodeHead op = .reserved) (rest : List Byte) :
    decode (op :: rest) = .error .reserved := by
  simp only [decode, h]

/-- A WRSEQ header with all its key bytes there, none of them bad (R113, R115). -/
theorem decode_of_sequence {op : Byte} {keys : List Byte} {ks : List KeyCode}
    (h : decodeHead op = .sequence keys.length) (hkeys : decodeKeys keys = some ks) (rest : List Byte) :
    decode (op :: (keys ++ rest)) = .ok (.wrseq ks, rest) := by
  have hroom : ¬ (keys ++ rest).length < keys.length := by simp
  simp only [decode, h, if_neg hroom, List.take_left, List.drop_left, hkeys]

/-- A WRSEQ header with all its key bytes there and a bad one among them (R117). -/
theorem decode_of_bad_sequence {op : Byte} {keys : List Byte} (h : decodeHead op = .sequence keys.length)
    (hkeys : decodeKeys keys = none) (rest : List Byte) : decode (op :: (keys ++ rest)) = .error .reserved := by
  have hroom : ¬ (keys ++ rest).length < keys.length := by simp
  simp only [decode, h, if_neg hroom, List.take_left, hkeys]

/-- The reserved ranges of R117 are the heads the opcode map leaves out: a check over the 256 bytes. -/
theorem decodeHead_eq_reserved_iff (op : Byte) : decodeHead op = .reserved ↔ Machine.ReservedByte op := by
  revert op; decide

/-- The WRSEQ headers are `011nnnnn` (R112, R113): a check over the 256 bytes. -/
theorem decodeHead_of_sequence_range {op : Byte} (hlo : 0x60 ≤ op.toNat) (hhi : op.toNat ≤ 0x7F) :
    decodeHead op = .sequence (op.toNat % 32) := by
  revert op; decide

/-- R115's length by ranges is the length the opcode map gives: a check over the 256 bytes. -/
theorem lengthByFirstByte_eq (op : Byte) : Machine.lengthByFirstByte op = opLength op := by
  revert op; decide

/-! ## Encode, then decode -/

/-- A one-byte word is read back: each operand checked (R112, R116). -/
theorem decodeHead_encode_edge (l : Bool) : decodeHead (0b0000000#7 ++ BitVec.ofBool l) = .single (.edge l) := by
  revert l; decide

theorem decodeHead_encode_sample (d : Bool) : decodeHead (0b0010000#7 ++ BitVec.ofBool d) = .single (.sample d) := by
  revert d; decide

theorem decodeHead_encode_wrkey (k : KeyCode) : decodeHead (0b010#3 ++ k) = .single (.wrkey k) := by
  revert k; decide

theorem decodeHead_encode_config (m r : Bool) :
    decodeHead (0b110100#6 ++ BitVec.ofBool m ++ BitVec.ofBool r) = .single (.config m r) := by
  revert m r; decide

/-- The word of a well-formed operation is read back, whatever follows it (R112 to R116). -/
theorem decode_encode {i : Instr} (hwf : i.wellFormed = true) (rest : List Byte) :
    decode (encode i ++ rest) = .ok (i, rest) := by
  cases i with
  | edge l => exact decode_of_single (decodeHead_encode_edge l) rest
  | sample d => exact decode_of_single (decodeHead_encode_sample d) rest
  | wrkey k => exact decode_of_single (decodeHead_encode_wrkey k) rest
  | wrseq ks =>
    have hhead := decodeHead_sequence ks.length ((wellFormed_wrseq_iff ks).1 hwf)
    exact decode_of_sequence (by rwa [List.length_map]) (decodeKeys_map ks) rest
  | config m r => exact decode_of_single (decodeHead_encode_config m r) rest
  | pollp | pollm | status | ackovf | reset => exact decode_of_single (by decide) rest
  | wait delta => exact congrArg (fun x => Except.ok (Instr.wait x, rest)) (wait_bytes delta)

/-- The same for a word written out. -/
theorem decode_of_encode_eq {i : Instr} {word : List Byte} (hwf : i.wellFormed = true) (hword : encode i = word) :
    decode word = .ok (i, []) := by
  have hdec := decode_encode hwf []
  rwa [List.append_nil, hword] at hdec

namespace Machine

/-- Settles O1: each operation's word against the opcode map. -/
theorem decodeOfEncodeIsTheOperation : Obligations.DecodeOfEncodeIsTheOperation :=
  fun _ rest hwf => decode_encode hwf rest

/-- Settles O2, by what the first byte says. -/
theorem decodedBytesAreTheOperationsWord : Obligations.DecodedBytesAreTheOperationsWord :=
  fun _ _ _ h => encode_of_decode h

/-- Settles O3: each of the sixteen is the word that R112 to R114 give its operation. -/
theorem wordsOfTheOpcodeMapDecode : Obligations.WordsOfTheOpcodeMapDecode := by
  unfold Obligations.WordsOfTheOpcodeMapDecode
  and_intros
  all_goals exact decode_of_encode_eq rfl rfl

end Machine

/-! ## Bytes that do not decode -/

/-- A byte above the key codes is no key byte (R113, R117): a check over the 256 bytes. -/
theorem decodeKeyByte_eq_none {b : Byte} (h : 32 ≤ b.toNat) : decodeKeyByte b = none := by
  revert b; decide

/-- One bad key byte spoils the sequence (R117). -/
theorem decodeKeys_eq_none {keys : List Byte} (h : ∃ b ∈ keys, 32 ≤ b.toNat) : decodeKeys keys = none := by
  obtain ⟨b, hb, hbad⟩ := h
  induction keys with
  | nil => cases hb
  | cons c keys ih =>
    rcases List.mem_cons.1 hb with rfl | hmem
    · rw [decodeKeys, decodeKeyByte_eq_none hbad]
    · rw [decodeKeys, ih hmem]
      cases decodeKeyByte c <;> rfl

/-- A stream shorter than its first operation is cut (R115). -/
theorem decode_of_short {op : Byte} {rest : List Byte} (h : rest.length + 1 < opLength op) :
    decode (op :: rest) = .error .incomplete := by
  rw [opLength] at h
  cases hhead : decodeHead op with
  | single i =>
    simp only [hhead] at h
    omega
  | reserved =>
    simp only [hhead] at h
    omega
  | sequence n =>
    simp only [hhead] at h
    simp only [decode, hhead, if_pos (show rest.length < n by omega)]
  | wait =>
    simp only [hhead] at h
    simp only [decode, hhead]
    split
    · simp only [List.length_cons] at h
      omega
    · rfl

/-- An operation that is read takes exactly the bytes its first byte announces (R115). -/
theorem length_of_decode {op : Byte} {rest rest' : List Byte} {i : Instr} (h : decode (op :: rest) = .ok (i, rest')) :
    ∃ word, rest = word ++ rest' ∧ opLength op = word.length + 1 := by
  rcases decode_ok_cases h with ⟨hop, rfl⟩ | ⟨ks, hop, _, rfl⟩ | ⟨t2, t1, t0, hop, _, rfl⟩
  · exact ⟨[], rfl, by rw [opLength, hop]; rfl⟩
  · exact ⟨ks.map encodeKeyByte, rfl, by rw [opLength, hop, List.length_map, Nat.add_comm]⟩
  · exact ⟨[t2, t1, t0], rfl, by rw [opLength, hop]; rfl⟩

/-- Every first byte outside the reserved ranges begins the word of some well-formed operation (R112, R117). -/
theorem exists_encode_of_not_reserved {op : Byte} (h : decodeHead op ≠ .reserved) :
    ∃ i rest, i.wellFormed = true ∧ encode i = op :: rest := by
  cases hhead : decodeHead op with
  | reserved => exact absurd hhead h
  | single i =>
    obtain ⟨hword, hwf⟩ := encode_of_decodeHead hhead
    exact ⟨i, [], hwf, hword⟩
  | sequence n =>
    obtain ⟨hn, rfl⟩ := header_of_decodeHead hhead
    refine ⟨.wrseq (List.replicate n 0), (List.replicate n 0).map encodeKeyByte, ?_, ?_⟩
    · rwa [wellFormed_wrseq_iff, List.length_replicate]
    · rw [encode, List.length_replicate]
  | wait =>
    obtain rfl := wait_of_decodeHead hhead
    exact ⟨.wait 0, _, rfl, rfl⟩

namespace Machine

/-! ## The step over a word that does not decode -/

theorem step_of_refused {s : State} {e : DecodeError} {r : RefuseReason} (h : decode s.pending = .error e)
    (hr : reasonsOf (some e) = [r]) : step s = .next { s with refusals := s.refusals ++ [r], pending := [] } := by
  cases e with
  | noOperation => cases hr
  | reserved | incomplete =>
    cases hr
    rw [step, fetch, h]
    rfl

/-- Settles O4: a reserved head, a bad key byte behind a WRSEQ header, and for every other head an operation that has
it. -/
theorem reservedEncodingsAreRefused : Obligations.ReservedEncodingsAreRefused := by
  refine ⟨fun s op rest hpending hop => ?_, fun s op keys rest hlo hhi hlen hpending hbad => ?_, fun op hop => ?_⟩
  · have hdec := decode_of_reserved ((decodeHead_eq_reserved_iff op).2 hop) rest
    exact step_of_refused (hpending ▸ hdec) rfl
  · have hhead := decodeHead_of_sequence_range hlo hhi
    have hdec := decode_of_bad_sequence (hlen ▸ hhead) (decodeKeys_eq_none hbad) rest
    exact step_of_refused (hpending ▸ hdec) rfl
  · obtain ⟨i, rest, hwf, hword⟩ := exists_encode_of_not_reserved (mt (decodeHead_eq_reserved_iff op).1 hop)
    exact ⟨rest, i, decode_of_encode_eq hwf hword⟩

/-- Settles O5: a stream shorter than the length of R115 is cut, and what is read is a word of that length. -/
theorem firstByteGivesTheLength : Obligations.FirstByteGivesTheLength := by
  intro s op rest hpending
  rw [lengthByFirstByte_eq]
  refine ⟨fun hshort => step_of_refused (hpending ▸ decode_of_short hshort) rfl, fun i rest' hdec => ?_⟩
  obtain ⟨word, rfl, hlen⟩ := length_of_decode hdec
  rw [hlen, List.length_append, Nat.add_sub_cancel, List.drop_left]
  exact ⟨by omega, rfl⟩

end Machine
end Sys2Proof
end

section
/-! PROOFS. What a poll does with the frame it takes (43_consumer.md R263 to R273). -/

namespace Sys2Proof.Machine

/-! ## The branches of a poll -/

/-- A disconnect poll answers EVENT at once (R263). -/
theorem pollPanel_of_disconnect {s : State} (h : Disconnects s) : pollPanel s = returns (.pollp 2) (pollBegun s) := by
  rcases pollPanel_cases s with ⟨_, e⟩ | ⟨hlive, _⟩ | ⟨hlive, _⟩
  · exact e
  · exact absurd h hlive
  · exact absurd h hlive

/-- A poll where it has taken the oldest frame, so that `rest` is queued, and before it looks at that frame (R265). -/
def dequeued (s : State) (rest : List Entry) : State := { pollBegun s with Q := rest }

/-- Any other poll takes the oldest frame (R265). -/
theorem pollPanel_of_frame {s : State} {e : Entry} {rest : List Entry} (hlive : ¬ Disconnects s)
    (hQ : s.Q = e :: rest) : pollPanel s = consumeFrame e (dequeued s rest) := by
  rcases pollPanel_cases s with ⟨hlost, _⟩ | ⟨_, hempty, _⟩ | ⟨_, e', rest', hQ', heq⟩
  · exact absurd hlost hlive
  · exact absurd (hQ.symm.trans hempty) (List.cons_ne_nil e rest)
  · obtain ⟨rfl, rfl⟩ := List.cons.inj (hQ.symm.trans hQ')
    exact heq

@[simp] theorem dequeued_params (s : State) (rest : List Entry) : (dequeued s rest).params = s.params := by
  rw [dequeued, pollBegun_frame]

@[simp] theorem dequeued_gateOpen (s : State) (rest : List Entry) : (dequeued s rest).gateOpen = s.gateOpen := by
  rw [dequeued, pollBegun_frame]

@[simp] theorem dequeued_cfgRedundant (s : State) (rest : List Entry) :
    (dequeued s rest).cfgRedundant = s.cfgRedundant := by
  rw [dequeued, pollBegun_frame]

@[simp] theorem dequeued_T0A (s : State) (rest : List Entry) : (dequeued s rest).T0A = s.T0A := by
  rw [dequeued, pollBegun_frame]

@[simp] theorem dequeued_TE6_20 (s : State) (rest : List Entry) : (dequeued s rest).TE6_20 = s.TE6_20 := by
  rw [dequeued, pollBegun_frame]

@[simp] theorem dequeued_TE6_03 (s : State) (rest : List Entry) : (dequeued s rest).TE6_03 = s.TE6_03 := by
  rw [dequeued, pollBegun_frame]

@[simp] theorem dequeued_TGen (s : State) (rest : List Entry) : (dequeued s rest).TGen = s.TGen := by
  rw [dequeued, pollBegun_frame]

@[simp] theorem dequeued_draws (s : State) (rest : List Entry) : (dequeued s rest).draws = s.draws := by
  rw [dequeued, pollBegun_frame]

/-- Nothing the three filters read is written before the frame is taken. -/
theorem passesGate_dequeued (s : State) (rest : List Entry) (e : Entry) :
    PassesGate (dequeued s rest) e ↔ PassesGate s e := by
  simp only [PassesGate, dequeued_gateOpen, dequeued_params]

theorem repeatsLoop_dequeued (s : State) (rest : List Entry) (e : Entry) :
    RepeatsLoop (dequeued s rest) e ↔ RepeatsLoop s e := by
  simp only [RepeatsLoop, dequeued_params, dequeued_T0A, dequeued_TE6_20, dequeued_TE6_03]

theorem repeatsGeneral_dequeued (s : State) (rest : List Entry) (e : Entry) :
    RepeatsGeneral (dequeued s rest) e ↔ RepeatsGeneral s e := by
  simp only [RepeatsGeneral, dequeued_params, dequeued_TGen]

/-! ## The fates of a frame -/

/-- At the closed gate a frame that does not open it is dropped (R266). -/
theorem consumeFrame_of_closed_gate {s : State} {e : Entry} (h : ¬ PassesGate s e) :
    consumeFrame e s = dropFrame s := by
  rcases consumeFrame_cases e s with ⟨_, heq⟩ | ⟨hpass, _⟩ | ⟨hpass, _⟩ | ⟨hpass, _⟩
  · exact heq
  all_goals exact absurd hpass h

/-- A frame that repeats its loop's tracker is dropped (R268). -/
theorem consumeFrame_of_repeated_loop {s : State} {e : Entry} (hpass : PassesGate s e) (hloop : RepeatsLoop s e) :
    consumeFrame e s = dropFrame { s with gateOpen := true } := by
  rcases consumeFrame_cases e s with ⟨hclosed, _⟩ | ⟨_, _, heq⟩ | ⟨_, hnew, _⟩ | ⟨_, hnew, _⟩
  · exact absurd hpass hclosed
  · exact heq
  all_goals exact absurd hloop hnew

/-- A frame that repeats the general tracker is dropped where general suppression is on (R270). -/
theorem consumeFrame_of_repeated_frame {s : State} {e : Entry} (hpass : PassesGate s e) (hloop : ¬ RepeatsLoop s e)
    (hgeneral : s.cfgRedundant = true ∧ RepeatsGeneral s e) :
    consumeFrame e s = dropFrame (loopRemembers e { s with gateOpen := true }) := by
  rcases consumeFrame_cases e s with ⟨hclosed, _⟩ | ⟨_, hrepeats, _⟩ | ⟨_, _, _, _, heq⟩ | ⟨_, _, hnew, _⟩
  · exact absurd hpass hclosed
  · exact absurd hrepeats hloop
  · exact heq
  · exact absurd hgeneral hnew

/-- Every other frame is exposed (R272). -/
theorem consumeFrame_of_survivor {s : State} {e : Entry} (hpass : PassesGate s e) (hloop : ¬ RepeatsLoop s e)
    (hgeneral : ¬ (s.cfgRedundant = true ∧ RepeatsGeneral s e)) :
    consumeFrame e s = surfaceFrame e { loopRemembers e { s with gateOpen := true } with
      TGen := if s.cfgRedundant = true then tracked s.TGen e.bytes s.params.N else s.TGen } := by
  rcases consumeFrame_cases e s with ⟨hclosed, _⟩ | ⟨_, hrepeats, _⟩ | ⟨_, _, hon, hold, _⟩ | ⟨_, _, _, heq⟩
  · exact absurd hpass hclosed
  · exact absurd hrepeats hloop
  · exact absurd ⟨hon, hold⟩ hgeneral
  · exact heq

/-! ## POLLP with a frame queued -/

/-- Settles O38: the disconnect branch of the poll, whole. -/
theorem pollpReportsALostBus : Obligations.PollpReportsALostBus := by
  intro s hclear hlost
  rw [exec_pollp hclear, pollPanel_of_disconnect hlost]
  rfl

/-- A POLLP that takes a frame is what becomes of that frame. -/
theorem exec_pollp_of_frame {s : State} {e : Entry} {rest : List Entry} (hclear : ¬ TimerFires s)
    (hlive : ¬ Disconnects s) (hQ : s.Q = e :: rest) :
    exec .pollp s = .next (consumeFrame e (dequeued s rest)) := by
  rw [exec_pollp hclear, pollPanel_of_frame hlive hQ]

/-- Settles O40: the frame fails at the gate, and the Entry drawn is one (R273). -/
theorem pollpDropsAtTheClosedGate : Obligations.PollpDropsAtTheClosedGate := by
  intro s e rest hclear hlive hQ hgate
  refine ⟨drawnEntry s.params s.draws, drawnEntry_wf s.params s.draws, ?_⟩
  rw [exec_pollp_of_frame hclear hlive hQ, consumeFrame_of_closed_gate (mt (passesGate_dequeued s rest e).1 hgate),
    ← dequeued_params s rest, ← dequeued_draws s rest]
  rfl

/-- Settles O41: the frame fails at its loop's tracker. -/
theorem pollpSuppressesRepeatedLoops : Obligations.PollpSuppressesRepeatedLoops := by
  intro s e rest hclear hlive hQ hgate hloop
  refine ⟨drawnEntry s.params s.draws, drawnEntry_wf s.params s.draws, ?_⟩
  rw [exec_pollp_of_frame hclear hlive hQ,
    consumeFrame_of_repeated_loop ((passesGate_dequeued s rest e).2 hgate) ((repeatsLoop_dequeued s rest e).2 hloop),
    ← dequeued_params s rest, ← dequeued_draws s rest]
  rfl

/-- Settles O42: the frame leaves its loop's tracker behind and fails at the general one. -/
theorem pollpSuppressesRepeatedFrames : Obligations.PollpSuppressesRepeatedFrames := by
  intro s e rest hclear hlive hQ hgate hloop hon hgeneral
  refine ⟨drawnEntry s.params s.draws, drawnEntry_wf s.params s.draws, ?_⟩
  rw [exec_pollp_of_frame hclear hlive hQ,
    consumeFrame_of_repeated_frame ((passesGate_dequeued s rest e).2 hgate) (mt (repeatsLoop_dequeued s rest e).1 hloop)
      ⟨(dequeued_cfgRedundant s rest).trans hon, (repeatsGeneral_dequeued s rest e).2 hgeneral⟩,
    loopRemembers_eq, ← dequeued_params s rest, ← dequeued_draws s rest, ← dequeued_T0A s rest,
    ← dequeued_TE6_20 s rest, ← dequeued_TE6_03 s rest]
  rfl

/-- Settles O43: the frame fails nowhere. -/
theorem pollpSurfacesASurvivingFrame : Obligations.PollpSurfacesASurvivingFrame := by
  intro s e rest hclear hlive hQ hgate hloop hgeneral
  have hgeneral' : ¬ ((dequeued s rest).cfgRedundant = true ∧ RepeatsGeneral (dequeued s rest) e) := by
    rwa [dequeued_cfgRedundant, repeatsGeneral_dequeued]
  rw [exec_pollp_of_frame hclear hlive hQ,
    consumeFrame_of_survivor ((passesGate_dequeued s rest e).2 hgate) (mt (repeatsLoop_dequeued s rest e).1 hloop)
      hgeneral',
    loopRemembers_eq, ← dequeued_params s rest, ← dequeued_cfgRedundant s rest, ← dequeued_T0A s rest,
    ← dequeued_TE6_20 s rest, ← dequeued_TE6_03 s rest, ← dequeued_TGen s rest]
  rfl

/-! ## Only a surviving frame surfaces -/

/-- A poll without a frame answers NONE or EVENT (R264, R273). -/
theorem emptyHanded_ne_frame (s : State) : emptyHanded s ≠ .pollp 1 := by
  unfold emptyHanded
  split <;> simp

/-- A frame that is dropped is not answered with FRAME (R273). -/
theorem dropFrame_result_ne_frame (s : State) : (dropFrame s).result ≠ some (.pollp 1) :=
  fun h => emptyHanded_ne_frame s (Option.some.inj h)

/-- FRAME comes with the frame itself, through the gate it passed (R266, R272). -/
theorem consumeFrame_of_result_frame {s : State} {e : Entry} (h : (consumeFrame e s).result = some (.pollp 1)) :
    PassesGate s e ∧ (consumeFrame e s).gateOpen = true ∧ (consumeFrame e s).panelOut = e := by
  rcases consumeFrame_cases e s with ⟨_, heq⟩ | ⟨_, _, heq⟩ | ⟨_, _, _, _, heq⟩ | ⟨hpass, _, _, heq⟩
  case inr.inr.inr =>
    rw [heq, loopRemembers_eq]
    exact ⟨hpass, rfl, rfl⟩
  all_goals
    rw [heq] at h
    exact absurd h (dropFrame_result_ne_frame _)

/-- Settles O44: of a poll's branches only the one that exposes the frame it took answers FRAME. -/
theorem framesSurfaceOnlyThroughTheGate : Obligations.FramesSurfaceOnlyThroughTheGate := by
  intro s t hclear hexec hresult
  cases (exec_pollp hclear).symm.trans hexec
  rcases pollPanel_cases s with ⟨_, heq⟩ | ⟨_, _, heq⟩ | ⟨hlive, e, rest, hQ, _⟩
  · rw [heq] at hresult
    exact absurd hresult (by simp)
  · rw [heq] at hresult
    exact absurd (Option.some.inj hresult) (emptyHanded_ne_frame _)
  · rw [pollPanel_of_frame hlive hQ] at hresult ⊢
    obtain ⟨hpass, hopen, hout⟩ := consumeFrame_of_result_frame hresult
    exact ⟨hopen, e, rest, hQ, consumeFrame_Q e _, hout, (passesGate_dequeued s rest e).1 hpass⟩

end Sys2Proof.Machine
end

section
/-! PROOFS. What each context writes (10_state.md R52, 60_exceptions.md R310), and the parameters, which none does
(R33). -/

namespace Sys2Proof.Machine

/-- An operation leaves its effect, or the record of its refusal (R306). -/
theorem result_of_exec {i : Instr} {s t : State} (h : exec i s = .next t) : t = effect i s ∨ ∃ r, t = refuse r s := by
  rcases exec_cases i s with e | ⟨r, e⟩
  · exact .inl (Host.Outcome.next.inj (h.symm.trans e))
  · exact .inr ⟨r, Host.Outcome.next.inj (h.symm.trans e)⟩

/-! ## The fields of each context -/

/-- `s` with the values of `t` in the fields an interrupt handler writes, its refusal among them. -/
def interruptWrites (s t : State) : State :=
  { s with
    clk := t.clk, lastRise := t.lastRise, clockHighTime := t.clockHighTime, sampleDue := t.sampleDue
    writeLow := t.writeLow, P := t.P, M := t.M, modActivity := t.modActivity, modSkipped := t.modSkipped
    T05 := t.T05, T1B := t.T1B, Q := t.Q, overflow := t.overflow, slot := t.slot, captured := t.captured
    lastGap := t.lastGap, wstate := t.wstate, wpass := t.wpass, doneAt := t.doneAt
    lastAlarmDone := t.lastAlarmDone, refusals := t.refusals }

/-- `s` with the values of `t` in the fields a call of the application writes, its refusal among them. -/
def applicationWrites (s t : State) : State :=
  { s with
    result := t.result, draws := t.draws, cfgModule := t.cfgModule, cfgRedundant := t.cfgRedundant
    polled := t.polled, Q := t.Q, overflow := t.overflow, captured := t.captured, gateOpen := t.gateOpen
    T0A := t.T0A, TE6_20 := t.TE6_20, TE6_03 := t.TE6_03, TGen := t.TGen, connected := t.connected
    changed := t.changed, panelOut := t.panelOut, moduleOut := t.moduleOut, wstate := t.wstate, wkey := t.wkey
    seq := t.seq, refusals := t.refusals }

/-- The falling handler writes the clock level, the clock-high time, the timer and what the injector writes (R160, R163,
R241). -/
theorem fallingEdge_frame (s : State) :
    fallingEdge s = { s with
      clk := false
      clockHighTime := s.now - s.lastRise
      sampleDue := some (s.now + s.params.sampleDelayUs)
      writeLow := (fallingEdge s).writeLow
      wpass := (fallingEdge s).wpass
      wstate := (fallingEdge s).wstate
      doneAt := (fallingEdge s).doneAt
      lastAlarmDone := (fallingEdge s).lastAlarmDone } := by
  rw [fallingEdge, injectorFalling_frame]
  rfl

theorem clockEdge_frame (l : Bool) (s : State) : clockEdge l s = interruptWrites s (clockEdge l s) := by
  cases l
  · change fallingEdge s = interruptWrites s (fallingEdge s)
    rw [fallingEdge_frame]
    rfl
  · rfl

/-- A SAMPLE, with a completion or without (R180, R196). -/
theorem takeSample_frame (d : Bool) (s : State) : takeSample d s = interruptWrites s (takeSample d s) := by
  by_cases hgap : s.params.gapUs < s.clockHighTime
  · rw [takeSample_of_gap d hgap, complete_eq, handleSample_eq]
    rfl
  · rw [takeSample_of_no_gap d (Nat.not_lt.1 hgap), handleSample_eq]
    rfl

theorem pollModule_frame (s : State) : pollModule s = applicationWrites s (pollModule s) := by
  unfold pollModule
  split <;> rfl

theorem configure_frame (m r : Bool) (s : State) : configure m r s = applicationWrites s (configure m r s) := by
  unfold configure
  split <;> rfl

/-- An interrupt handler writes its own fields alone (R52, R310). -/
theorem effect_interrupt_frame {i : Instr} (h : i.context = .interrupt) (s : State) :
    effect i s = interruptWrites s (effect i s) := by
  cases i with
  | edge l => exact clockEdge_frame l s
  | sample d => exact takeSample_frame d s
  | wrkey | wrseq | pollp | pollm | status | ackovf | reset | config | wait => cases h

/-- A call of the application writes its own fields alone (R52, R310). -/
theorem effect_application_frame {i : Instr} (h : i.context = .application) (s : State) :
    effect i s = applicationWrites s (effect i s) := by
  cases i with
  | wrkey k =>
    change writeKey k s = applicationWrites s (writeKey k s)
    rw [writeKey_frame]
    rfl
  | wrseq ks =>
    change writeSequence ks s = applicationWrites s (writeSequence ks s)
    rw [writeSequence_frame]
    rfl
  | pollp =>
    change pollPanel s = applicationWrites s (pollPanel s)
    rw [pollPanel_frame, pollBegun_frame]
    rfl
  | pollm => exact pollModule_frame s
  | config m r => exact configure_frame m r s
  | status | ackovf => rfl
  | edge | sample | reset | wait => cases h

theorem interruptWrites_of_exec {i : Instr} {s t : State} (hi : i.context = .interrupt) (h : exec i s = .next t) :
    t = interruptWrites s t := by
  rcases result_of_exec h with rfl | ⟨r, rfl⟩
  · exact effect_interrupt_frame hi s
  · rfl

theorem applicationWrites_of_exec {i : Instr} {s t : State} (hi : i.context = .application) (h : exec i s = .next t) :
    t = applicationWrites s t := by
  rcases result_of_exec h with rfl | ⟨r, rfl⟩
  · exact effect_application_frame hi s
  · rfl

/-- Settles O56: each context's frame, field by field. -/
theorem contextsWriteTheirOwnState : Obligations.ContextsWriteTheirOwnState := by
  intro i s t h
  refine ⟨fun hi => ?_, fun hi => ?_⟩
  · rw [interruptWrites_of_exec hi h]
    and_intros <;> rfl
  · rw [applicationWrites_of_exec hi h]
    and_intros <;> rfl

/-! ## Parameters and stream -/

/-- WAIT moves time or records its refusal (R166). -/
theorem passTime_frame (delta : Nat) (s : State) :
    passTime delta s = { s with now := (passTime delta s).now, refusals := (passTime delta s).refusals } := by
  rcases passTime_cases delta s with ⟨_, _, _, e⟩ | ⟨_, e⟩
  · rw [e]
    rfl
  · rw [e]

/-- Settles O53: neither field is in a context's frame; WAIT and RESET keep both. -/
theorem operationsKeepParametersAndStream : Obligations.OperationsKeepParametersAndStream := by
  intro i s t h
  cases hi : i.context with
  | interrupt =>
    rw [interruptWrites_of_exec hi h]
    exact ⟨rfl, rfl⟩
  | application =>
    rw [applicationWrites_of_exec hi h]
    exact ⟨rfl, rfl⟩
  | environment =>
    rcases result_of_exec h with rfl | ⟨r, rfl⟩
    case inr => exact ⟨rfl, rfl⟩
    cases i with
    | wait delta =>
      change (passTime delta.toNat s).params = s.params ∧ (passTime delta.toNat s).pending = s.pending
      rw [passTime_frame]
      exact ⟨rfl, rfl⟩
    | reset => exact ⟨rfl, rfl⟩
    | edge | sample | wrkey | wrseq | pollp | pollm | status | ackovf | config => cases hi

/-! ## The queue -/

/-- A poll leaves the queue or takes the oldest frame (R88, R265). -/
theorem pollPanel_Q_cases (s : State) : (pollPanel s).Q = s.Q ∨ ∃ e, s.Q = e :: (pollPanel s).Q := by
  rcases pollPanel_cases s with ⟨_, h⟩ | ⟨_, _, h⟩ | ⟨_, e, rest, hQ, h⟩
  · exact .inl (by simp [h])
  · exact .inl (by simp [h])
  · exact .inr ⟨e, by simp [h, hQ]⟩

/-- A SAMPLE leaves the queue or appends the frame it completes (R88, R199). -/
theorem exec_sample_Q_cases {d : Bool} {s t : State} (h : exec (.sample d) s = .next t) :
    t.Q = s.Q ∨ (Completes s ∧ t.Q = s.Q ++ [entryOf (panelAfter d s)]) := by
  by_cases hc : Completes s
  · cases (completionResult s d hc).symm.trans h
    by_cases hkept : KeepsFrame d s ∧ s.Q.length ≠ s.params.QCAP
    · exact .inr ⟨hc, if_pos hkept⟩
    · exact .inl (if_neg hkept)
  · exact .inl (exec_sample_Q_of_not_completes hc h)

/-- Settles O55, by the three operations that write the queue. -/
theorem queueIsFirstInFirstOut : Obligations.QueueIsFirstInFirstOut := by
  intro i s t h
  by_cases hsample : ∃ d, i = .sample d
  · obtain ⟨d, rfl⟩ := hsample
    rcases exec_sample_Q_cases h with hQ | ⟨hc, hQ⟩
    · exact .inl hQ
    · exact .inr (.inl ⟨d, rfl, hc, hQ⟩)
  rcases result_of_exec h with rfl | ⟨r, rfl⟩
  case inr => exact .inl rfl
  cases i with
  | sample d => exact absurd ⟨d, rfl⟩ hsample
  | pollp =>
    rcases pollPanel_Q_cases s with hQ | hQ
    · exact .inl hQ
    · exact .inr (.inr (.inl ⟨rfl, hQ⟩))
  | reset => exact .inr (.inr (.inr ⟨rfl, rfl⟩))
  | edge l => exact .inl (clockEdge_Q l s)
  | wrkey k => exact .inl (writeKey_Q k s)
  | wrseq ks => exact .inl (writeSequence_Q ks s)
  | pollm => exact .inl (pollModule_Q s)
  | config m r => exact .inl (configure_Q m r s)
  | wait delta => exact .inl (passTime_Q delta.toNat s)
  | status | ackovf => exact .inl rfl

end Sys2Proof.Machine
end

section
/-! PROOFS. The step by what the decoder offers (R94, R119), and when each refusal is recorded (R306). -/

namespace Sys2Proof.Machine

/-! ## The step -/

theorem step_of_decode {s : State} {i : Instr} {rest : List Byte} (h : decode s.pending = .ok (i, rest)) :
    step s = exec i (withPending rest s) := by
  rw [step, fetch_of_decode h]

theorem step_of_empty {s : State} (h : s.pending = []) : step s = .next s := by
  rw [step, fetch, h]
  rfl

/-- Settles O8: the operation's branch of the step. -/
theorem stepRunsTheDecodedOperation : Obligations.StepRunsTheDecodedOperation :=
  fun _ _ _ h => step_of_decode h

/-- Settles O9: an operation is performed or refused, and a step is an operation, a refusal or a wait. -/
theorem everyStepAnswersANextState : Obligations.EveryStepAnswersANextState := by
  refine ⟨exists_next_of_exec, fun s => ?_⟩
  rcases step_cases s with ⟨_, e⟩ | ⟨_, e⟩ | ⟨_, e⟩ | ⟨i, rest, _, e⟩
  case inr.inr.inr =>
    rw [e]
    exact exists_next_of_exec i _
  all_goals exact ⟨_, e⟩

/-- Settles O10: the waiting branch of the step. -/
theorem emptyStreamWaits : Obligations.EmptyStreamWaits :=
  fun _ h => step_of_empty h

/-! ## SAMPLE's admission -/

theorem exec_sample_of_unarmed {s : State} (d : Bool) (h : s.sampleDue = none) :
    exec (.sample d) s = .next (refuse .noDeadline s) := by
  rcases admitSample_cases (takeSample d) s with ⟨_, e⟩ | ⟨_, h', _⟩ | ⟨h', _⟩
  · exact congrArg Host.Outcome.next e
  · cases h.symm.trans h'
  · cases h.symm.trans h'

theorem exec_sample_of_early {s : State} {due : Nat} (d : Bool) (h : s.sampleDue = some due) (hne : due ≠ s.now) :
    exec (.sample d) s = .next (refuse .early s) := by
  rcases admitSample_cases (takeSample d) s with ⟨h', _⟩ | ⟨_, _, _, e⟩ | ⟨h', _⟩
  · cases h.symm.trans h'
  · exact congrArg Host.Outcome.next e
  · cases h.symm.trans h'
    exact absurd rfl hne

/-- A sample that is taken spends the timer, completion or not (R180). -/
@[simp] theorem takeSample_sampleDue (d : Bool) (s : State) : (takeSample d s).sampleDue = none := by
  have hhandle : (handleSample d s).sampleDue = none := by rw [handleSample_eq]
  unfold takeSample
  split
  · rw [complete_eq]
    exact hhandle
  · exact hhandle

@[simp] theorem takeSample_refusals (d : Bool) (s : State) : (takeSample d s).refusals = s.refusals := by
  have hhandle : (handleSample d s).refusals = s.refusals := by rw [handleSample_eq]
  unfold takeSample
  split
  · rw [complete_eq]
    exact hhandle
  · exact hhandle

/-- Settles O13, by the three places of the deadline. -/
theorem sampleIsAdmittedAtItsDeadline : Obligations.SampleIsAdmittedAtItsDeadline :=
  fun s d => ⟨exec_sample_of_unarmed d, fun _ h hlt => exec_sample_of_early d h hlt.ne',
    fun hfires => ⟨takeSample d s, exec_sample d hfires, takeSample_sampleDue d s, takeSample_refusals d s⟩⟩

/-! ## What each admitted operation does to the record of refusals -/

@[simp] theorem clockEdge_refusals (l : Bool) (s : State) : (clockEdge l s).refusals = s.refusals := by
  cases l
  · change (fallingEdge s).refusals = s.refusals
    rw [fallingEdge_frame]
  · rfl

@[simp] theorem writeKey_refusals (k : KeyCode) (s : State) : (writeKey k s).refusals = s.refusals := by
  rw [writeKey_frame]

@[simp] theorem writeSequence_refusals (ks : List KeyCode) (s : State) :
    (writeSequence ks s).refusals = s.refusals := by
  rw [writeSequence_frame]

@[simp] theorem pollPanel_refusals (s : State) : (pollPanel s).refusals = s.refusals := by
  rw [pollPanel_frame, pollBegun_frame]

@[simp] theorem pollModule_refusals (s : State) : (pollModule s).refusals = s.refusals := by
  unfold pollModule
  split <;> rfl

/-! ## The table of refusals, one operation -/

/-- The rows of R306 that concern a word that decodes, for the operation `i`. -/
def DueFor (i : Instr) (s : State) : RefuseReason → Prop
  | .reserved => False
  | .incomplete => False
  | .deadline => TimerFires s ∧ i ≠ .reset ∧ ∀ d, i ≠ .sample d
  | .deadlineCrossed => ∃ delta t, i = .wait delta ∧ s.sampleDue = some t ∧ s.now < t ∧ t < s.now + delta.toNat
  | .noDeadline => ∃ d, i = .sample d ∧ s.sampleDue = none
  | .early => ∃ d t, i = .sample d ∧ s.sampleDue = some t ∧ s.now < t
  | .configAfterPoll => ∃ m b, i = .config m b ∧ s.polled = true ∧ ¬ TimerFires s

theorem refusalDue_iff_dueFor {s : State} {i : Instr} {rest : List Byte} (h : decode s.pending = .ok (i, rest))
    (r : RefuseReason) : RefusalDue r s ↔ DueFor i s r := by
  cases r <;> simp [RefusalDue, DueFor, h]

theorem refusalDue_iff_of_reserved {s : State} (h : decode s.pending = .error .reserved) (r : RefuseReason) :
    RefusalDue r s ↔ r = .reserved := by
  cases r <;> simp [RefusalDue, h]

theorem refusalDue_iff_of_incomplete {s : State} (h : decode s.pending = .error .incomplete) (r : RefuseReason) :
    RefusalDue r s ↔ r = .incomplete := by
  cases r <;> simp [RefusalDue, h]

theorem not_refusalDue_of_empty {s : State} (h : s.pending = []) (r : RefuseReason) : ¬ RefusalDue r s := by
  have hdec := (decode_noOperation_iff s.pending).2 h
  cases r <;> simp [RefusalDue, hdec]

/-- A step's outcome agrees with a set of reasons that are due: one reason, recorded with nothing else changed but the
stream, or none and no record. -/
def Follows (due : RefuseReason → Prop) (s t : State) : Prop :=
  (∃ r, t = { s with refusals := s.refusals ++ [r], pending := t.pending } ∧ ∀ r', due r' ↔ r' = r) ∨
    (t.refusals = s.refusals ∧ ∀ r, ¬ due r)

theorem follows_refuse {due : RefuseReason → Prop} {r : RefuseReason} (s : State) (h : ∀ r', due r' ↔ r' = r) :
    Follows due s (refuse r s) :=
  .inl ⟨r, rfl, h⟩

/-- A SAMPLE follows R168's rows, where its deadline is not in the past. -/
theorem exec_sample_follows {d : Bool} {s t : State} (hpast : ∀ due ∈ s.sampleDue, s.now ≤ due)
    (h : exec (.sample d) s = .next t) : Follows (DueFor (.sample d) s) s t := by
  cases hdue : s.sampleDue with
  | none =>
    cases (exec_sample_of_unarmed d hdue).symm.trans h
    exact follows_refuse s fun r => by cases r <;> simp [DueFor, hdue]
  | some due =>
    rcases Nat.lt_or_eq_of_le (hpast due hdue) with hlt | rfl
    · cases (exec_sample_of_early d hdue hlt.ne').symm.trans h
      exact follows_refuse s fun r => by cases r <;> simp [DueFor, hdue, hlt]
    · cases (exec_sample d hdue).symm.trans h
      exact .inr ⟨takeSample_refusals d s, fun r => by cases r <;> simp [DueFor, hdue]⟩

/-- A WAIT follows R166's row, away from the sample instant. -/
theorem passTime_follows {delta : BitVec 24} {s : State} (hpast : ∀ due ∈ s.sampleDue, s.now ≤ due)
    (hclear : ¬ TimerFires s) : Follows (DueFor (.wait delta) s) s (passTime delta.toNat s) := by
  by_cases hcross : ∃ due ∈ s.sampleDue, due < s.now + delta.toNat
  · rw [passTime_of_crossing hcross]
    obtain ⟨due, hdue, hlt⟩ := hcross
    have hne : due ≠ s.now := by
      rintro rfl
      exact hclear hdue
    have hahead : s.now < due := Nat.lt_of_le_of_ne (hpast due hdue) hne.symm
    exact follows_refuse s fun r => by cases r <;> simp_all [DueFor, TimerFires]
  · have hwithin : ∀ due ∈ s.sampleDue, s.now + delta.toNat ≤ due :=
      fun due hdue => Nat.not_lt.1 fun hlt => hcross ⟨due, hdue, hlt⟩
    rw [passTime_of_within hwithin]
    exact .inr ⟨rfl, fun r => by cases r <;> simp_all [DueFor]⟩

/-- A CONFIG follows R290's row, away from the sample instant. -/
theorem configure_follows {m b : Bool} {s : State} (hclear : ¬ TimerFires s) :
    Follows (DueFor (.config m b) s) s (configure m b s) := by
  cases hpolled : s.polled
  · rw [configure_of_not_polled m b hpolled]
    exact .inr ⟨rfl, fun r => by cases r <;> simp_all [DueFor]⟩
  · rw [configure_of_polled m b hpolled]
    exact follows_refuse s fun r => by cases r <;> simp_all [DueFor]

/-- At the sample instant only R159's row applies to an operation other than SAMPLE and RESET. -/
theorem dueFor_iff_of_fires {i : Instr} {s : State} (hreset : i ≠ .reset) (hsample : ∀ d, i ≠ .sample d)
    (hfires : TimerFires s) (r : RefuseReason) : DueFor i s r ↔ r = .deadline := by
  have hdue : s.sampleDue = some s.now := hfires
  cases r with
  | deadline => exact iff_of_true ⟨hfires, hreset, hsample⟩ rfl
  | reserved | incomplete | deadlineCrossed | noDeadline | early | configAfterPoll => simp [DueFor, hdue, hsample]

/-- Every operation follows the table (R306). -/
theorem exec_follows {i : Instr} {s t : State} (hpast : ∀ due ∈ s.sampleDue, s.now ≤ due) (h : exec i s = .next t) :
    Follows (DueFor i s) s t := by
  by_cases hsample : ∃ d, i = .sample d
  · obtain ⟨d, rfl⟩ := hsample
    exact exec_sample_follows hpast h
  by_cases hreset : i = .reset
  · subst hreset
    cases h
    exact .inr ⟨rfl, fun r => by cases r <;> simp [DueFor]⟩
  have hsample' : ∀ d, i ≠ .sample d := fun d e => hsample ⟨d, e⟩
  by_cases hfires : TimerFires s
  · cases (exec_of_fires hreset hsample' hfires).symm.trans h
    exact follows_refuse s (dueFor_iff_of_fires hreset hsample' hfires)
  · cases (exec_of_clear hreset hsample' hfires).symm.trans h
    have hnone (hwait : ∀ delta, i ≠ .wait delta) (hconfig : ∀ m b, i ≠ .config m b) (r : RefuseReason) :
        ¬ DueFor i s r := by
      cases r <;> simp_all [DueFor]
    cases i with
    | sample d => exact absurd rfl (hsample' d)
    | reset => exact absurd rfl hreset
    | wait delta => exact passTime_follows hpast hfires
    | config m b => exact configure_follows hfires
    | edge l => exact .inr ⟨clockEdge_refusals l s, hnone nofun nofun⟩
    | wrkey k => exact .inr ⟨writeKey_refusals k s, hnone nofun nofun⟩
    | wrseq ks => exact .inr ⟨writeSequence_refusals ks s, hnone nofun nofun⟩
    | pollp => exact .inr ⟨pollPanel_refusals s, hnone nofun nofun⟩
    | pollm => exact .inr ⟨pollModule_refusals s, hnone nofun nofun⟩
    | status | ackovf => exact .inr ⟨rfl, hnone nofun nofun⟩

/-! ## The table of refusals, one step -/

/-- An outcome of an operation is as good for the state before its word was taken off the stream. -/
theorem Follows.of_withPending {due : RefuseReason → Prop} {rest : List Byte} {s t : State}
    (h : Follows due (withPending rest s) t) : Follows due s t := by
  rcases h with ⟨r, e, hdue⟩ | h
  · exact .inl ⟨r, e, hdue⟩
  · exact .inr h

theorem step_follows {s t : State} (hpast : ∀ due ∈ s.sampleDue, s.now ≤ due) (h : step s = .next t) :
    Follows (RefusalDue · s) s t := by
  rcases step_cases s with ⟨hempty, e⟩ | ⟨hdec, e⟩ | ⟨hdec, e⟩ | ⟨i, rest, hdec, e⟩
  · cases e.symm.trans h
    exact .inr ⟨rfl, not_refusalDue_of_empty hempty⟩
  · cases e.symm.trans h
    exact .inl ⟨.reserved, rfl, refusalDue_iff_of_reserved hdec⟩
  · cases e.symm.trans h
    exact .inl ⟨.incomplete, rfl, refusalDue_iff_of_incomplete hdec⟩
  · have hsame : (RefusalDue · s) = DueFor i s := funext fun r => propext (refusalDue_iff_dueFor hdec r)
    rw [hsame]
    exact (exec_follows (s := withPending rest s) hpast (e.symm.trans h)).of_withPending

/-- Settles O12: each operation follows the table, and a word that does not decode empties the stream. -/
theorem refusalsFollowTheirTable : Obligations.RefusalsFollowTheirTable := by
  intro s t hpast hstep
  have hempty : ∀ e, decode s.pending = .error e → t.pending = [] := by
    intro e hdec
    rcases step_cases s with ⟨hempty, e'⟩ | ⟨_, e'⟩ | ⟨_, e'⟩ | ⟨_, _, hdec', _⟩
    · cases e'.symm.trans hstep
      exact hempty
    · cases e'.symm.trans hstep
      rfl
    · cases e'.symm.trans hstep
      rfl
    · cases hdec.symm.trans hdec'
  rcases step_follows hpast hstep with ⟨r, ht, hdue⟩ | ⟨hsame, hdue⟩
  · refine ⟨fun r' => ?_, .inr ⟨r, ht⟩, hempty⟩
    have hr : s.refusals ++ [r] = s.refusals ++ [r'] ↔ r' = r := by simp [eq_comm]
    rw [ht]
    exact hr.trans (hdue r').symm
  · refine ⟨fun r => ?_, .inl hsame, hempty⟩
    rw [hsame]
    simpa using hdue r

end Sys2Proof.Machine
end

section
/-! PROOFS. The falling edge and the write window (40_line_sampler.md R160 to R167, 42_write_injector.md R220 to
R248). -/

namespace Sys2Proof.Machine

/-! ## Time reaches the deadline -/

/-- Settles O14: the WAIT ends at the deadline, and there the sample is taken. -/
theorem armedSampleIsReached : Obligations.ArmedSampleIsReached := by
  intro s due d hdue hlt hnear
  have hclear : ¬ TimerFires s := fun hfires => by
    cases hdue.symm.trans hfires
    exact absurd hlt (Nat.lt_irrefl _)
  have hdelta : (BitVec.ofNat 24 (due - s.now)).toNat = due - s.now := by
    rw [BitVec.toNat_ofNat, Nat.mod_eq_of_lt hnear]
  have harrive : s.now + (due - s.now) = due := by omega
  have hwithin : ∀ due' ∈ s.sampleDue, s.now + (due - s.now) ≤ due' := fun due' hdue' => by
    cases hdue.symm.trans hdue'
    exact harrive.le
  refine ⟨{ s with now := due }, takeSample d { s with now := due }, ?_, rfl, exec_sample d hdue,
    takeSample_sampleDue d _, takeSample_refusals d _⟩
  rw [exec_wait _ hclear, hdelta, passTime_of_within hwithin, harrive]

/-! ## One position of the window -/

theorem startPass_eq (w : WState) (k : Key) :
    startPass w k = if w = .armed2 then .pass2 else if 12 ≤ k.val then .pass1 else .plain := by
  simp only [startPass, isCmd, decide_eq_true_eq]

/-- What position `i` of a window drives (R126, R241). -/
theorem driveBit_eq (i : Nat) (s : State) :
    driveBit i s = { s with
      writeLow := if i ≤ sentWidth s.wpass then !sentBit s.params s.wpass s.wkey i else s.writeLow } := by
  rw [driveBit, passWidth_eq, pullsLow_eq]
  split <;> rfl

/-- What the end of a pass leaves (R243). -/
theorem passEnd_eq (s : State) :
    passEnd s = { s with
      wstate := if s.wpass = .pass1 then .wait2 else .drain
      doneAt := if s.wpass = .pass1 then s.doneAt else s.now / 1000
      lastAlarmDone := if s.wpass ≠ .pass1 ∧ s.wkey ∈ s.params.alarmKeys then some (s.now / 1000)
        else s.lastAlarmDone } := by
  by_cases h : s.wpass = .pass1 <;> simp [passEnd, finishKey_eq, h]

/-- Every window is wider than one position (R222). -/
theorem eight_le_sentWidth (pass : WPass) : 8 ≤ sentWidth pass := by
  cases pass <;> decide

/-- Everything the injector can do at a falling edge (R241). -/
theorem injectorFalling_cases (s : State) :
    (InjectorQuiet s ∧ injectorFalling s = s) ∨
    (s.params.writeEnabled = true ∧ (s.wstate = .staged ∨ s.wstate = .armed2) ∧ WindowOpens s ∧
      injectorFalling s = { s with
        wpass := startPass s.wstate s.wkey
        wstate := .active
        writeLow := pullsLow s.params (startPass s.wstate s.wkey) s.wkey 1 }) ∨
    (s.params.writeEnabled = true ∧ s.wstate = .active ∧
      injectorFalling s =
        if passWidth s.wpass ≤ windowPosition s then passEnd (driveBit (windowPosition s) s)
        else driveBit (windowPosition s) s) := by
  by_cases hquiet : InjectorQuiet s
  · exact .inl ⟨hquiet, injectorFalling_quiet hquiet⟩
  refine .inr ?_
  obtain ⟨hoff, hbusy⟩ := not_or.1 hquiet
  have hon : s.params.writeEnabled = true := Bool.eq_true_of_not_eq_false hoff
  by_cases hactive : s.wstate = .active
  · exact .inr ⟨hon, hactive, injectorFalling_active hon hactive⟩
  · have hstart := not_not.1 (not_and.1 hbusy hactive)
    exact .inl ⟨hon, hstart.1, hstart.2, injectorFalling_start hon hstart.1 hstart.2⟩

/-- A pass in progress at its position `i` (R222, R241). -/
theorem injectorFalling_at {s : State} {i : Nat} (hon : s.params.writeEnabled = true) (hactive : s.wstate = .active)
    (hi : 1 ≤ i) (hpos : s.P.bits + 1 = s.params.wstart + i) :
    injectorFalling s = if sentWidth s.wpass ≤ i then passEnd (driveBit i s) else driveBit i s := by
  have hposition : windowPosition s = i := by
    rw [windowPosition]
    omega
  rw [injectorFalling_active hon hactive, hposition, passWidth_eq]

/-! ## The falling edge -/

/-- The state a falling edge hands to the injector: the clock low and its high time measured (R160, R163). -/
def fallen (s : State) : State := { s with clk := false, clockHighTime := s.now - s.lastRise }

theorem exec_falling {s : State} (h : ¬ TimerFires s) :
    exec (.edge false) s = .next (armTimer (injectorFalling (fallen s))) :=
  exec_edge false h

/-- Settles O17: the injector leaves the state as the edge made it. -/
theorem fallingEdgeWithoutPass : Obligations.FallingEdgeWithoutPass := by
  intro s hclear hquiet
  rw [exec_falling hclear, injectorFalling_quiet (s := fallen s) hquiet]
  rfl

/-- Settles O18: the injector starts the pass and drives its first position. -/
theorem fallingEdgeStartsPass : Obligations.FallingEdgeStartsPass := by
  rintro s pass hclear hon hwaits hopens rfl
  rw [exec_falling hclear, injectorFalling_start (s := fallen s) hon hwaits hopens, pullsLow_eq, startPass_eq]
  rfl

/-- Settles O19: the injector drives the position and the pass goes on. -/
theorem fallingEdgeDrivesPosition : Obligations.FallingEdgeDrivesPosition := by
  intro s i hclear hon hactive hi hpos hinside
  have hgoes : ¬ sentWidth (fallen s).wpass ≤ i := Nat.not_le.2 hinside
  have hwithin : i ≤ sentWidth (fallen s).wpass := hinside.le
  rw [exec_falling hclear, injectorFalling_at (s := fallen s) hon hactive hi hpos, if_neg hgoes, driveBit_eq,
    if_pos hwithin]
  rfl

/-- Settles O20: past the last position nothing is driven, and from it on the pass ends. -/
theorem fallingEdgeEndsPass : Obligations.FallingEdgeEndsPass := by
  intro s i hclear hon hactive hpos hlast
  have hi : 1 ≤ i := Nat.le_trans (by decide) ((eight_le_sentWidth s.wpass).trans hlast)
  have hends : sentWidth (fallen s).wpass ≤ i := hlast
  have hdriven : i ≤ sentWidth s.wpass ↔ i = sentWidth s.wpass := ⟨fun h => Nat.le_antisymm h hlast, fun h => h.le⟩
  simp only [← hdriven]
  rw [exec_falling hclear, injectorFalling_at (s := fallen s) hon hactive hi hpos, if_pos hends, driveBit_eq,
    passEnd_eq]
  rfl

/-! ## Two passes -/

/-- Bits 5 and 1 of 0xDD, at positions 3 and 7 of 8, are its only zeros: each position checked (R124, R247). -/
theorem keyOne_bit (i : Fin 9) (hi : 1 ≤ i.val) :
    (!(0xDD#8).getLsbD (8 - i.val)) = true ↔ i.val = 3 ∨ i.val = 7 := by
  revert i; decide

/-- Key '1' is sent as 0xDD with valid parameters (R124). -/
theorem sentBit_keyOne {p : Params} (hvalid : p.valid = true) (i : Nat) :
    sentBit p .plain 1 i = (0xDD#8).getLsbD (8 - i) := by
  have hpattern : p.keyPattern8[1]? = some 0xDD := by
    simp only [Params.valid, Bool.and_eq_true, decide_eq_true_eq] at hvalid
    tauto
  rw [sentBit, List.getD_eq_getElem?_getD]
  exact congrArg (fun x => (x.getD 0).getLsbD (8 - i)) hpattern

/-- Settles O21: the positions before the eighth by O19, the eighth by O20. -/
theorem keyOnePullsLowAtThreeAndSeven : Obligations.KeyOnePullsLowAtThreeAndSeven := by
  intro s i hvalid hclear hon hactive hplain hkey hi hle hpos
  have hwidth : sentWidth s.wpass = 8 := by rw [hplain]; rfl
  have hlow : (!sentBit s.params s.wpass s.wkey i) = true ↔ i = 3 ∨ i = 7 := by
    rw [hplain, hkey, sentBit_keyOne hvalid]
    exact keyOne_bit ⟨i, by omega⟩ hi
  rcases Nat.lt_or_eq_of_le hle with hlt | rfl
  · refine ⟨_, fallingEdgeDrivesPosition s i hclear hon hactive hi hpos (hwidth ▸ hlt), hlow, ?_, ?_⟩
    · simp [hactive, hlt.ne]
    · simp [hactive, hlt]
  · refine ⟨_, fallingEdgeEndsPass s 8 hclear hon hactive hpos hwidth.le, ?_, ?_, ?_⟩
    · rw [if_pos hwidth.symm]
      exact hlow
    · simp [hplain]
    · simp [hplain]

/-- The placeholder is all ones: each position checked (R125). -/
theorem placeholder_bit (i : Fin 25) (hi : 1 ≤ i.val) : (!(0xFFFFFF#24).getLsbD (24 - i.val)) = false := by
  revert i; decide

/-- Settles O22: the positions before the last by O19, the last by O20. -/
theorem placeholderPassLeavesTheLineHigh : Obligations.PlaceholderPassLeavesTheLineHigh := by
  intro s i hclear hon hactive hpass hi hle hpos
  have hwidth : sentWidth s.wpass = 24 := by rw [hpass]; rfl
  have hhigh : (!sentBit s.params s.wpass s.wkey i) = false := by
    rw [hpass]
    exact placeholder_bit ⟨i, by omega⟩ hi
  rcases Nat.lt_or_eq_of_le hle with hlt | rfl
  · refine ⟨_, fallingEdgeDrivesPosition s i hclear hon hactive hi hpos (hwidth ▸ hlt), hhigh, ?_⟩
    simp [hactive, hlt.ne]
  · refine ⟨_, fallingEdgeEndsPass s 24 hclear hon hactive hpos hwidth.le, ?_, ?_⟩
    · rw [if_pos hwidth.symm]
      exact hhigh
    · simp [hpass]

/-! ## The injector's table -/

/-- What a SAMPLE can do: complete a frame, be refused, or be handled without a gap (R168, R192). -/
theorem exec_sample_cases {d : Bool} {s t : State} (h : exec (.sample d) s = .next t) :
    (Completes s ∧ t = complete (handleSample d s)) ∨ (∃ r, t = refuse r s) ∨ t = handleSample d s := by
  by_cases hfires : TimerFires s
  · cases (exec_sample d hfires).symm.trans h
    by_cases hgap : s.params.gapUs < s.clockHighTime
    · exact .inl ⟨⟨hfires, hgap⟩, takeSample_of_gap d hgap⟩
    · exact .inr (.inr (takeSample_of_no_gap d (Nat.not_lt.1 hgap)))
  · obtain ⟨r, e⟩ := exec_sample_of_not_fires d hfires
    cases e.symm.trans h
    exact .inr (.inl ⟨r, rfl⟩)

/-- A completion moves the injector by R245. -/
theorem complete_wstate (s : State) :
    (complete s).wstate = if s.wstate = .wait2 ∨ (s.wstate = .active ∧ s.wpass = .pass1) then .armed2
      else if s.wstate = .active then .drain else s.wstate := by
  rw [complete_eq, injectorGap_eq]

/-- A SAMPLE moves the injector at a gap alone (R245). -/
theorem wstate_of_exec_sample {d : Bool} {s t : State} (h : exec (.sample d) s = .next t)
    (hmoved : t.wstate ≠ s.wstate) :
    Completes s ∧ ((s.wstate = .wait2 ∧ t.wstate = .armed2) ∨
      (s.wstate = .active ∧ s.wpass = .pass1 ∧ t.wstate = .armed2) ∨
      (s.wstate = .active ∧ s.wpass ≠ .pass1 ∧ t.wstate = .drain)) := by
  rcases exec_sample_cases h with ⟨hc, rfl⟩ | ⟨r, rfl⟩ | rfl
  · refine ⟨hc, ?_⟩
    rw [complete_wstate, handleSample_eq] at hmoved ⊢
    by_cases hwait : s.wstate = .wait2
    · exact .inl ⟨hwait, if_pos (.inl hwait)⟩
    · by_cases hactive : s.wstate = .active
      · by_cases hpass : s.wpass = .pass1
        · exact .inr (.inl ⟨hactive, hpass, if_pos (.inr ⟨hactive, hpass⟩)⟩)
        · refine .inr (.inr ⟨hactive, hpass, ?_⟩)
          simp [hactive, hpass]
      · simp [hwait, hactive] at hmoved
  · exact absurd rfl hmoved
  · rw [handleSample_eq] at hmoved
    exact absurd rfl hmoved

/-- A falling edge moves the injector at a window's start or at a pass's end alone (R241 to R243). -/
theorem wstate_of_injectorFalling {s : State} (hmoved : (injectorFalling s).wstate ≠ s.wstate) :
    ((s.wstate = .staged ∨ s.wstate = .armed2) ∧ WindowOpens s ∧ (injectorFalling s).wstate = .active ∧
      (injectorFalling s).wpass = startPass s.wstate s.wkey) ∨
    (s.wstate = .active ∧ s.params.wstart + sentWidth s.wpass ≤ s.P.bits + 1 ∧
      (injectorFalling s).wstate = if s.wpass = .pass1 then .wait2 else .drain) := by
  rcases injectorFalling_cases s with ⟨_, e⟩ | ⟨_, hwaits, hopens, e⟩ | ⟨_, hactive, e⟩
  · exact absurd (congrArg State.wstate e) hmoved
  · rw [e]
    exact .inl ⟨hwaits, hopens, rfl, rfl⟩
  · rw [e] at hmoved ⊢
    by_cases hlast : passWidth s.wpass ≤ windowPosition s
    · rw [if_pos hlast, passEnd_eq, driveBit_eq]
      rw [passWidth_eq, windowPosition] at hlast
      have hwide := eight_le_sentWidth s.wpass
      exact .inr ⟨hactive, by omega, rfl⟩
    · rw [if_neg hlast, driveBit_eq] at hmoved
      exact absurd rfl hmoved

/-- The next key of a sequence is staged by a ready block alone (R235). -/
theorem wstate_of_seqAdvance {s : State} (hmoved : (seqAdvance s).wstate ≠ s.wstate) :
    (seqAdvance s).wstate = .staged ∧ Ready s := by
  rcases seqAdvance_cases s with ⟨_, _, _, hready, _, e⟩ | ⟨_, e⟩
  · exact ⟨congrArg State.wstate e, hready⟩
  · exact absurd (congrArg State.wstate e) hmoved

theorem wstate_of_writeKey {k : KeyCode} {s : State} (hmoved : (writeKey k s).wstate ≠ s.wstate) :
    (writeKey k s).wstate = .staged ∧ Ready s := by
  by_cases h : ∃ h : k.toNat < 16, Ready s ∧ FloorElapsed s ⟨k.toNat, h⟩
  · obtain ⟨hvalid, hready, hfloor⟩ := h
    exact ⟨congrArg State.wstate (writeKey_accepts hvalid hready hfloor), hready⟩
  · exact absurd (congrArg State.wstate (writeKey_ignores h)) hmoved

theorem wstate_of_writeSequence {ks : List KeyCode} {s : State} (hmoved : (writeSequence ks s).wstate ≠ s.wstate) :
    (writeSequence ks s).wstate = .staged ∧ Ready s := by
  by_cases hready : Ready s
  · rw [writeSequence_of_ready ks hready] at hmoved ⊢
    exact ⟨(wstate_of_seqAdvance hmoved).1, hready⟩
  · exact absurd (congrArg State.wstate (writeSequence_of_not_ready ks hready)) hmoved

theorem wstate_of_pollPanel {s : State} (hmoved : (pollPanel s).wstate ≠ s.wstate) :
    (pollPanel s).wstate = .staged ∧ Ready s := by
  rw [pollPanel_wstate, ← updateLiveness_seqAdvance] at hmoved ⊢
  exact wstate_of_seqAdvance (s := { s with polled := true }) hmoved

@[simp] theorem pollModule_wstate (s : State) : (pollModule s).wstate = s.wstate := by
  unfold pollModule
  split <;> rfl

@[simp] theorem configure_wstate (m r : Bool) (s : State) : (configure m r s).wstate = s.wstate := by
  unfold configure
  split <;> rfl

@[simp] theorem passTime_wstate (delta : Nat) (s : State) : (passTime delta s).wstate = s.wstate := by
  rw [passTime_frame]

/-- Settles O36, by the operations that move the injector: a call, a falling edge, a gap, RESET. -/
theorem injectorMovesOnlyByItsTable : Obligations.InjectorMovesOnlyByItsTable := by
  intro s t i h hmoved
  by_cases hsample : ∃ d, i = .sample d
  · obtain ⟨d, rfl⟩ := hsample
    exact .inr (.inr (.inr (.inl ⟨⟨d, rfl⟩, wstate_of_exec_sample h hmoved⟩)))
  rcases result_of_exec h with rfl | ⟨r, rfl⟩
  case inr => exact absurd rfl hmoved
  cases i with
  | sample d => exact absurd ⟨d, rfl⟩ hsample
  | edge l =>
    cases l with
    | true => exact absurd rfl hmoved
    | false =>
      rcases wstate_of_injectorFalling (s := fallen s) hmoved with ⟨hwaits, hopens, hto, hpass⟩ | ⟨hactive, hlast, hto⟩
      · exact .inr (.inl ⟨hto, rfl, hwaits, hopens, hpass.trans (startPass_eq s.wstate s.wkey)⟩)
      · exact .inr (.inr (.inl ⟨hactive, rfl, hlast, hto⟩))
  | wrkey k =>
    obtain ⟨hto, hready⟩ := wstate_of_writeKey hmoved
    exact .inl ⟨hto, hready, .inr (.inl ⟨k, rfl⟩)⟩
  | wrseq ks =>
    obtain ⟨hto, hready⟩ := wstate_of_writeSequence hmoved
    exact .inl ⟨hto, hready, .inr (.inr ⟨ks, rfl⟩)⟩
  | pollp =>
    obtain ⟨hto, hready⟩ := wstate_of_pollPanel hmoved
    exact .inl ⟨hto, hready, .inl rfl⟩
  | reset => exact .inr (.inr (.inr (.inr ⟨rfl, rfl⟩)))
  | pollm => exact absurd (pollModule_wstate s) hmoved
  | config m r => exact absurd (configure_wstate m r s) hmoved
  | wait delta => exact absurd (passTime_wstate delta.toNat s) hmoved
  | status | ackovf => exact absurd rfl hmoved

end Sys2Proof.Machine
end

section
/-! PROOFS. What no operation reads (R51, R94, R183): the operation stream, the `overlong` flags and, while no sample is
armed, the clock level; and with the first of them the runs over whole streams (R119). -/

namespace Sys2Proof.Machine

/-! ## A change of the fields the application's calls do not read -/

/-- A change of the stream, the clock level and the two scratch buffers. -/
structure Relabel where
  stream : List Byte → List Byte
  level : Bool → Bool
  panel : FrameBuf → FrameBuf
  module : FrameBuf → FrameBuf

/-- The state so changed. -/
def Relabel.on (u : Relabel) (s : State) : State :=
  { s with pending := u.stream s.pending, clk := u.level s.clk, P := u.panel s.P, M := u.module s.M }

/-- The change that gives the state the stream `bs`. -/
def toStream (bs : List Byte) : Relabel := ⟨fun _ => bs, id, id, id⟩

/-- The change that gives the state the clock level `l`. -/
def toLevel (l : Bool) : Relabel := ⟨id, fun _ => l, id, id⟩

/-- The buffer with its `overlong` flag cleared. -/
def FrameBuf.forget (B : FrameBuf) : FrameBuf := { B with overlong := false }

/-- The change that clears the two `overlong` flags. -/
def toForgotten : Relabel := ⟨id, id, FrameBuf.forget, FrameBuf.forget⟩

theorem toStream_on (bs : List Byte) (s : State) : (toStream bs).on s = withPending bs s := rfl

theorem toLevel_on (l : Bool) (s : State) : (toLevel l).on s = { s with clk := l } := rfl

theorem toForgotten_on (s : State) : toForgotten.on s = forgetOverlong s := rfl

section
variable (u : Relabel) (s : State)

theorem seqAdvance_on : seqAdvance (u.on s) = u.on (seqAdvance s) := by
  rcases seqAdvance_cases s with ⟨k, rest, hseq, hready, hfloor, e⟩ | ⟨hnone, e⟩
  · rw [e]
    exact seqAdvance_of_stages (s := u.on s) hseq hready hfloor
  · rw [e]
    exact seqAdvance_of_not_stages (s := u.on s) hnone

theorem writeKey_on (k : KeyCode) : writeKey k (u.on s) = u.on (writeKey k s) := by
  by_cases h : ∃ h : k.toNat < 16, Ready s ∧ FloorElapsed s ⟨k.toNat, h⟩
  · obtain ⟨hvalid, hready, hfloor⟩ := h
    rw [writeKey_accepts hvalid hready hfloor]
    exact writeKey_accepts (s := u.on s) hvalid hready hfloor
  · rw [writeKey_ignores h]
    exact writeKey_ignores (s := u.on s) h

theorem writeSequence_on (ks : List KeyCode) : writeSequence ks (u.on s) = u.on (writeSequence ks s) := by
  by_cases h : Ready s
  · rw [writeSequence_of_ready ks h, ← seqAdvance_on]
    exact writeSequence_of_ready (s := u.on s) ks h
  · rw [writeSequence_of_not_ready ks h]
    exact writeSequence_of_not_ready (s := u.on s) ks h

theorem pollBegun_on : pollBegun (u.on s) = u.on (pollBegun s) := by
  rw [← updateLiveness_seqAdvance, ← updateLiveness_seqAdvance]
  exact congrArg updateLiveness (seqAdvance_on u { s with polled := true })

theorem dequeued_on (rest : List Entry) : dequeued (u.on s) rest = u.on (dequeued s rest) := by
  rw [dequeued, pollBegun_on]
  rfl

theorem loopRemembers_on (e : Entry) : loopRemembers e (u.on s) = u.on (loopRemembers e s) := by
  rw [loopRemembers_eq, loopRemembers_eq]
  rfl

theorem consumeFrame_on (e : Entry) : consumeFrame e (u.on s) = u.on (consumeFrame e s) := by
  rcases consumeFrame_cases e s with ⟨hgate, h⟩ | ⟨hgate, hloop, h⟩ | ⟨hgate, hloop, hon, hgen, h⟩ |
    ⟨hgate, hloop, hgen, h⟩
  · rw [h]
    exact consumeFrame_of_closed_gate (s := u.on s) hgate
  · rw [h]
    exact consumeFrame_of_repeated_loop (s := u.on s) hgate hloop
  · rw [h, consumeFrame_of_repeated_frame (s := u.on s) hgate hloop ⟨hon, hgen⟩]
    exact congrArg dropFrame (loopRemembers_on u { s with gateOpen := true } e)
  · rw [h, consumeFrame_of_survivor (s := u.on s) hgate hloop hgen, loopRemembers_eq, loopRemembers_eq]
    rfl

theorem pollPanel_on : pollPanel (u.on s) = u.on (pollPanel s) := by
  rcases pollPanel_cases s with ⟨hlost, h⟩ | ⟨hlive, hempty, h⟩ | ⟨hlive, e, rest, hQ, h⟩
  · rw [h, pollPanel_of_disconnect (s := u.on s) hlost, pollBegun_on]
    rfl
  · rw [h, pollPanel_of_empty_queue (s := u.on s) hlive hempty, pollBegun_on]
    rfl
  · rw [h, pollPanel_of_frame (s := u.on s) hlive hQ, dequeued_on]
    exact consumeFrame_on u (dequeued s rest) e

theorem pollModule_on : pollModule (u.on s) = u.on (pollModule s) := by
  cases h : s.captured
  · rw [pollModule_of_not_captured h]
    exact pollModule_of_not_captured (s := u.on s) h
  · rw [pollModule_of_captured h]
    exact pollModule_of_captured (s := u.on s) h

theorem configure_on (m r : Bool) : configure m r (u.on s) = u.on (configure m r s) := by
  cases h : s.polled
  · rw [configure_of_not_polled m r h]
    exact configure_of_not_polled (s := u.on s) m r h
  · rw [configure_of_polled m r h]
    exact configure_of_polled (s := u.on s) m r h

theorem passTime_on (delta : Nat) : passTime delta (u.on s) = u.on (passTime delta s) := by
  by_cases h : ∃ due ∈ s.sampleDue, due < s.now + delta
  · rw [passTime_of_crossing h]
    exact passTime_of_crossing (s := u.on s) h
  · have hwithin : ∀ due ∈ s.sampleDue, s.now + delta ≤ due :=
      fun due hdue => Nat.not_lt.1 fun hlt => h ⟨due, hdue, hlt⟩
    rw [passTime_of_within hwithin]
    exact passTime_of_within (s := u.on s) hwithin

/-- No call of the application and no WAIT reads the stream, the clock level or a scratch buffer. -/
theorem effect_on {i : Instr} (hedge : ∀ l, i ≠ .edge l) (hsample : ∀ d, i ≠ .sample d) (hreset : i ≠ .reset) :
    effect i (u.on s) = u.on (effect i s) := by
  cases i with
  | edge l => exact absurd rfl (hedge l)
  | sample d => exact absurd rfl (hsample d)
  | reset => exact absurd rfl hreset
  | wrkey k => exact writeKey_on u s k
  | wrseq ks => exact writeSequence_on u s ks
  | pollp => exact pollPanel_on u s
  | pollm => exact pollModule_on u s
  | config m r => exact configure_on u s m r
  | wait delta => exact passTime_on u s delta.toNat
  | status | ackovf => rfl

theorem exec_sample_on {d : Bool} {t : State} (heffect : takeSample d (u.on s) = u.on (takeSample d s))
    (h : exec (.sample d) s = .next t) : exec (.sample d) (u.on s) = .next (u.on t) := by
  cases hdue : s.sampleDue with
  | none =>
    cases (exec_sample_of_unarmed d hdue).symm.trans h
    exact exec_sample_of_unarmed (s := u.on s) d hdue
  | some due =>
    by_cases hnow : due = s.now
    · subst hnow
      cases (exec_sample d hdue).symm.trans h
      rw [← heffect]
      exact exec_sample (s := u.on s) d hdue
    · cases (exec_sample_of_early d hdue hnow).symm.trans h
      exact exec_sample_of_early (s := u.on s) d hdue hnow

/-- Where an operation's effect commutes with a change of those fields, so does the operation: its admission reads none
of them. -/
theorem exec_on {i : Instr} {s t : State} (heffect : effect i (u.on s) = u.on (effect i s)) (h : exec i s = .next t) :
    exec i (u.on s) = .next (u.on t) := by
  by_cases hreset : i = .reset
  · subst hreset
    cases h
    exact congrArg Host.Outcome.next heffect
  by_cases hsample : ∃ d, i = .sample d
  · obtain ⟨d, rfl⟩ := hsample
    exact exec_sample_on u s heffect h
  have hsample' : ∀ d, i ≠ .sample d := fun d e => hsample ⟨d, e⟩
  by_cases hfires : TimerFires s
  · cases (exec_of_fires hreset hsample' hfires).symm.trans h
    exact exec_of_fires (s := u.on s) hreset hsample' hfires
  · cases (exec_of_clear hreset hsample' hfires).symm.trans h
    rw [← heffect]
    exact exec_of_clear (s := u.on s) hreset hsample' hfires

end

/-! ## The stream and the flags, which the interrupt handlers do not read either -/

/-- A change that leaves what the injector reads of a frame, its length and its bytes, and the clock level. -/
structure Relabel.Mild (u : Relabel) : Prop where
  level_eq : ∀ l, u.level l = l
  bits_eq : ∀ B, (u.panel B).bits = B.bits
  bytes_eq : ∀ B, (u.panel B).bytes = B.bytes

theorem toStream_mild (bs : List Byte) : (toStream bs).Mild := ⟨fun _ => rfl, fun _ => rfl, fun _ => rfl⟩

theorem toForgotten_mild : toForgotten.Mild := ⟨fun _ => rfl, fun _ => rfl, fun _ => rfl⟩

section
variable {u : Relabel} (s : State)

theorem windowOpens_on (hu : u.Mild) : WindowOpens (u.on s) ↔ WindowOpens s := by
  rw [WindowOpens, WindowOpens, ← hu.bits_eq s.P, ← hu.bytes_eq s.P]
  rfl

theorem driveBit_on (i : Nat) : driveBit i (u.on s) = u.on (driveBit i s) := by
  unfold driveBit
  rw [apply_ite u.on]
  rfl

theorem passEnd_on : passEnd (u.on s) = u.on (passEnd s) := by
  unfold passEnd
  rw [apply_ite u.on]
  rfl

theorem windowPosition_on (hu : u.Mild) : windowPosition (u.on s) = windowPosition s := by
  rw [windowPosition, windowPosition, ← hu.bits_eq s.P]
  rfl

/-- The injector at a falling edge reads the frame's length and its command id, no flag of the buffer and no stream. -/
theorem injectorFalling_on (hu : u.Mild) : injectorFalling (u.on s) = u.on (injectorFalling s) := by
  rcases injectorFalling_cases s with ⟨hquiet, e⟩ | ⟨hon, hwaits, hopens, e⟩ | ⟨hon, hactive, e⟩
  · have hquiet' : InjectorQuiet (u.on s) := by
      rw [InjectorQuiet, windowOpens_on s hu]
      exact hquiet
    rw [e, injectorFalling_quiet hquiet']
  · rw [e]
    exact injectorFalling_start (s := u.on s) hon hwaits ((windowOpens_on s hu).2 hopens)
  · rw [e, injectorFalling_active (s := u.on s) hon hactive, windowPosition_on s hu, driveBit_on, passEnd_on,
      apply_ite u.on]
    rfl

theorem clockEdge_on (hu : u.Mild) (l : Bool) : clockEdge l (u.on s) = u.on (clockEdge l s) := by
  have hlevel : u.level l = l := hu.level_eq l
  cases l
  · change armTimer (injectorFalling { u.on s with clk := false, clockHighTime := s.now - s.lastRise }) = _
    have hon : { u.on s with clk := false, clockHighTime := s.now - s.lastRise } =
        u.on { s with clk := false, clockHighTime := s.now - s.lastRise } := by
      simp only [Relabel.on, hlevel]
    rw [hon, injectorFalling_on _ hu]
    rfl
  · change risingEdge (u.on s) = u.on (risingEdge s)
    simp only [risingEdge_eq, Relabel.on, hlevel]

end

/-! ## The stream -/

/-- A SAMPLE neither reads nor writes the stream. -/
theorem takeSample_toStream (d : Bool) (bs : List Byte) (s : State) :
    takeSample d ((toStream bs).on s) = (toStream bs).on (takeSample d s) := by
  by_cases hgap : s.params.gapUs < s.clockHighTime
  · rw [takeSample_of_gap d hgap, takeSample_of_gap (s := (toStream bs).on s) d hgap, complete_eq, complete_eq,
      injectorGap_eq, injectorGap_eq, handleSample_eq, handleSample_eq]
    rfl
  · have hnogap := Nat.not_lt.1 hgap
    rw [takeSample_of_no_gap d hnogap, takeSample_of_no_gap (s := (toStream bs).on s) d hnogap, handleSample_eq,
      handleSample_eq]
    rfl

theorem effect_toStream (i : Instr) (bs : List Byte) (s : State) :
    effect i ((toStream bs).on s) = (toStream bs).on (effect i s) := by
  cases i with
  | edge l => exact clockEdge_on s (toStream_mild bs) l
  | sample d => exact takeSample_toStream d bs s
  | reset => rfl
  | wrkey | wrseq | pollp | pollm | status | ackovf | config | wait => exact effect_on _ s nofun nofun nofun

/-- An operation does the same whatever stream follows it, and leaves that stream (R94). -/
theorem exec_withPending {i : Instr} {s t : State} (bs : List Byte) (h : exec i s = .next t) :
    exec i (withPending bs s) = .next (withPending bs t) := by
  rw [← toStream_on, ← toStream_on]
  exact exec_on (toStream bs) (effect_toStream i bs s) h

/-! ## The `overlong` flags -/

/-- The framer does not read the flag (R183). -/
theorem captureBit_forget (n : Nat) (b : Bool) (B : FrameBuf) :
    (captureBit n b B.forget).forget = (captureBit n b B).forget := by
  simp only [captureBit, apply_ite FrameBuf.forget]
  rfl

theorem panelAfter_forgetOverlong (d : Bool) (s : State) :
    (panelAfter d (forgetOverlong s)).forget = (panelAfter d s).forget := by
  unfold panelAfter
  rw [apply_ite FrameBuf.forget, apply_ite FrameBuf.forget, ← captureBit_forget _ _ s.P]
  rfl

theorem moduleAfter_forgetOverlong (d : Bool) (s : State) :
    (moduleAfter d (forgetOverlong s)).forget = (moduleAfter d s).forget := by
  unfold moduleAfter
  rw [apply_ite FrameBuf.forget, apply_ite FrameBuf.forget, ← captureBit_forget _ _ s.M]
  rfl

theorem handleSample_forgetOverlong (d : Bool) (s : State) :
    forgetOverlong (handleSample d (forgetOverlong s)) = forgetOverlong (handleSample d s) := by
  rw [handleSample_eq, handleSample_eq]
  change { s with
    sampleDue := none
    P := (panelAfter d (forgetOverlong s)).forget
    M := (moduleAfter d (forgetOverlong s)).forget
    modActivity := activityAfter d s
    modSkipped := skippedAfter s } = _
  rw [panelAfter_forgetOverlong, moduleAfter_forgetOverlong]
  rfl

/-- A completion does not read the flags, and leaves them clear (R183, R201). -/
theorem complete_forgetOverlong (s : State) : complete (forgetOverlong s) = complete s := by
  rw [complete_eq, complete_eq, injectorGap_eq, injectorGap_eq]
  rfl

theorem takeSample_forgetOverlong (d : Bool) (s : State) :
    forgetOverlong (takeSample d (forgetOverlong s)) = forgetOverlong (takeSample d s) := by
  by_cases hgap : s.params.gapUs < s.clockHighTime
  · rw [takeSample_of_gap d hgap, takeSample_of_gap (s := forgetOverlong s) d hgap, ← complete_forgetOverlong,
      handleSample_forgetOverlong, complete_forgetOverlong]
  · have hnogap := Nat.not_lt.1 hgap
    rw [takeSample_of_no_gap d hnogap, takeSample_of_no_gap (s := forgetOverlong s) d hnogap]
    exact handleSample_forgetOverlong d s

/-- From a state with its flags cleared an operation goes where it goes from the state itself, the flags apart. -/
theorem exec_forgetOverlong {i : Instr} {s t : State} (h : exec i s = .next t) :
    ∃ t', exec i (forgetOverlong s) = .next t' ∧ forgetOverlong t' = forgetOverlong t := by
  by_cases hsample : ∃ d, i = .sample d
  · obtain ⟨d, rfl⟩ := hsample
    cases hdue : s.sampleDue with
    | none =>
      cases (exec_sample_of_unarmed d hdue).symm.trans h
      exact ⟨_, exec_sample_of_unarmed (s := forgetOverlong s) d hdue, rfl⟩
    | some due =>
      by_cases hnow : due = s.now
      · subst hnow
        cases (exec_sample d hdue).symm.trans h
        exact ⟨_, exec_sample (s := forgetOverlong s) d hdue, takeSample_forgetOverlong d s⟩
      · cases (exec_sample_of_early d hdue hnow).symm.trans h
        exact ⟨_, exec_sample_of_early (s := forgetOverlong s) d hdue hnow, rfl⟩
  · refine ⟨forgetOverlong t, ?_, rfl⟩
    rw [← toForgotten_on, ← toForgotten_on]
    refine exec_on toForgotten ?_ h
    cases i with
    | sample d => exact absurd ⟨d, rfl⟩ hsample
    | edge l => exact clockEdge_on s toForgotten_mild l
    | reset => rfl
    | wrkey | wrseq | pollp | pollm | status | ackovf | config | wait => exact effect_on _ s nofun nofun nofun

/-- Settles O57: both states are compared with the one in which their flags are cleared. -/
theorem nothingReadsOverlong : Obligations.NothingReadsOverlong := by
  intro i s s' t t' hsame h h'
  obtain ⟨u, hu, hut⟩ := exec_forgetOverlong h
  obtain ⟨u', hu', hut'⟩ := exec_forgetOverlong h'
  rw [hsame] at hu
  cases hu.symm.trans hu'
  exact hut.symm.trans hut'

/-! ## The clock level while no sample is armed -/

/-- Only the line sampler and RESET write the timer (R47). -/
theorem effect_sampleDue {i : Instr} (hedge : ∀ l, i ≠ .edge l) (hsample : ∀ d, i ≠ .sample d) (hreset : i ≠ .reset)
    (s : State) : (effect i s).sampleDue = s.sampleDue := by
  cases i with
  | edge l => exact absurd rfl (hedge l)
  | sample d => exact absurd rfl (hsample d)
  | reset => exact absurd rfl hreset
  | wait delta =>
    change (passTime delta.toNat s).sampleDue = s.sampleDue
    rw [passTime_frame]
  | wrkey | wrseq | pollp | pollm | status | ackovf | config =>
    rw [effect_application_frame rfl s]
    rfl

/-- An edge writes the level before anything reads it (R51, R160). -/
theorem clockEdge_forgets_level (l level : Bool) (s : State) : clockEdge l { s with clk := level } = clockEdge l s := by
  cases l <;> rfl

/-- Settles O58: an edge and RESET overwrite the level, an unarmed SAMPLE is refused, and the rest do not read it. -/
theorem nothingReadsClkUnarmed : Obligations.NothingReadsClkUnarmed := by
  intro i s t level hunarmed h
  have hclear : ¬ TimerFires s := fun hfires => by cases hunarmed.symm.trans hfires
  refine ⟨?_, fun hedge hreset => ?_⟩
  · rintro (⟨l, rfl⟩ | rfl)
    · rw [exec_edge (s := { s with clk := level }) l hclear, clockEdge_forgets_level, ← exec_edge l hclear]
      exact h
    · exact h
  · by_cases hsample : ∃ d, i = .sample d
    · obtain ⟨d, rfl⟩ := hsample
      cases (exec_sample_of_unarmed d hunarmed).symm.trans h
      exact ⟨exec_sample_of_unarmed (s := { s with clk := level }) d hunarmed, hunarmed⟩
    · have hsample' : ∀ d, i ≠ .sample d := fun d e => hsample ⟨d, e⟩
      rw [← toLevel_on level s, ← toLevel_on level t]
      refine ⟨exec_on (toLevel level) (effect_on _ s hedge hsample' hreset) h, ?_⟩
      cases (exec_of_clear hreset hsample' hclear).symm.trans h
      exact (effect_sampleDue hedge hsample' hreset s).trans hunarmed

/-! ## Runs -/

theorem run_succ {s t : State} (k : Nat) (h : step s = .next t) :
    Sys2Proof.core.run (k + 1) s = Sys2Proof.core.run k t := by
  have hstep : Sys2Proof.core.step s = .next t := h
  simp only [Host.Core.run, hstep]

/-- The first step of a run over a stream that decodes: the operation from the state with no stream, then the run over
what follows its word (R94, R119). -/
theorem run_of_decode {bs rest : List Byte} {i : Instr} {s t : State} (k : Nat) (hdec : decode bs = .ok (i, rest))
    (h : exec i (withPending [] s) = .next t) :
    Sys2Proof.core.run (k + 1) (withPending bs s) = Sys2Proof.core.run k (withPending rest t) :=
  run_succ k ((step_of_decode (s := withPending bs s) hdec).trans (exec_withPending (s := withPending [] s) rest h))

theorem execAll_cons {i : Instr} {s t : State} (is : List Instr) (h : exec i s = .next t) :
    execAll (i :: is) s = execAll is t := by
  rw [execAll, h]

/-- The stream of a state that an operation leaves is the one it was given. -/
theorem withPending_of_exec {i : Instr} {bs : List Byte} {s t : State} (h : exec i (withPending bs s) = .next t) :
    withPending bs t = t := by
  have hbs : t.pending = bs := (operationsKeepParametersAndStream i _ t h).2
  rw [← hbs]
  rfl

/-- A run over the operations' words, one step each, by induction on the operations. -/
theorem run_encodeStream {is : List Instr} (s : State) (hwf : ∀ i ∈ is, i.wellFormed = true) :
    Sys2Proof.core.run is.length (withPending (encodeStream is) s) = execAll is (withPending [] s) := by
  induction is generalizing s with
  | nil => rfl
  | cons i is ih =>
    obtain ⟨hi, his⟩ := List.forall_mem_cons.1 hwf
    obtain ⟨t, ht⟩ := exists_next_of_exec i (withPending [] s)
    have hdec : decode (encodeStream (i :: is)) = .ok (i, encodeStream is) := decode_encode hi (encodeStream is)
    rw [execAll_cons is ht, List.length_cons, run_of_decode is.length hdec ht, ih t his, withPending_of_exec ht]

/-- Settles O7: by induction on the list of operations. -/
theorem runOfEncodedOperationsIsTheOperations : Obligations.RunOfEncodedOperationsIsTheOperations :=
  fun _ s hwf => run_encodeStream s hwf

/-- Every list of operations ends in a next state (R300). -/
theorem exists_next_of_execAll (is : List Instr) (s : State) : ∃ t, execAll is s = .next t := by
  induction is generalizing s with
  | nil => exact ⟨s, rfl⟩
  | cons i is ih =>
    obtain ⟨t, ht⟩ := exists_next_of_exec i s
    rw [execAll_cons is ht]
    exact ih t

/-- One step over an empty stream records nothing (R344; log 3). -/
theorem run_of_empty (s : State) :
    Sys2Proof.core.run 1 (withPending [] s) =
      .next { withPending [] s with refusals := s.refusals ++ reasonsOf none } := by
  rw [run_succ 0 (step_of_empty (s := withPending [] s) rfl), reasonsOf, List.append_nil]
  rfl

/-- One step over a refused head records its reason and reads nothing more (R119, R306). -/
theorem run_of_refused {bs : List Byte} {e : DecodeError} (s : State) (hne : bs ≠ []) (hdec : decode bs = .error e) :
    Sys2Proof.core.run 1 (withPending bs s) =
      .next { withPending [] s with refusals := s.refusals ++ reasonsOf (some e) } := by
  cases e with
  | noOperation => exact absurd ((decode_noOperation_iff bs).1 hdec) hne
  | reserved | incomplete =>
    rw [run_succ 0 (step_of_refused (s := withPending bs s) hdec rfl)]
    rfl

/-- A run over any bytes, with the refusal that ends it (R119), by induction on the decoder's fuel. -/
theorem run_decodeStreamFuel {fuel : Nat} {bs : List Byte} {s t : State} (hfuel : bs.length ≤ fuel)
    (h : execAll (decodeStreamFuel fuel bs).1 (withPending [] s) = .next t) :
    Sys2Proof.core.run ((decodeStreamFuel fuel bs).1.length + 1) (withPending bs s) =
      .next { t with refusals := t.refusals ++ reasonsOf (decodeStreamFuel fuel bs).2 } := by
  induction fuel generalizing bs s with
  | zero =>
    obtain rfl := List.length_eq_zero_iff.1 (Nat.le_zero.1 hfuel)
    cases h
    exact run_of_empty s
  | succ fuel ih =>
    cases bs with
    | nil =>
      cases h
      exact run_of_empty s
    | cons b bs =>
      cases hdec : decode (b :: bs) with
      | error e =>
        simp only [decodeStreamFuel, hdec] at h ⊢
        cases h
        exact run_of_refused s (List.cons_ne_nil b bs) hdec
      | ok p =>
        obtain ⟨i, rest⟩ := p
        have hlt := length_lt_of_decode hdec
        simp only [decodeStreamFuel, hdec] at h ⊢
        obtain ⟨u, hu⟩ := exists_next_of_exec i (withPending [] s)
        rw [execAll_cons _ hu, ← withPending_of_exec hu] at h
        rw [List.length_cons, run_of_decode _ hdec hu]
        exact ih (by omega) h

/-- Settles O59: the run up to the refusal, and the refusal's own step. -/
theorem runStopsAtTheFirstRefusal : Obligations.RunStopsAtTheFirstRefusal := by
  intro bs s
  obtain ⟨t, ht⟩ := exists_next_of_execAll (decodeStream bs).1 (withPending [] s)
  have hall : execAll (decodeStream bs).1 { s with pending := [] } = .next t := ht
  rw [hall]
  exact run_decodeStreamFuel (Nat.le_refl _) ht

end Sys2Proof.Machine
end

section
/-! PROOFS. Complete bytes and full buffers (20_memory.md R82 to R84, 41_bit_capture.md R181 to R183). -/

namespace Sys2Proof.Machine

/-! ## One captured bit -/

theorem captureBit_of_full {n : Nat} {B : FrameBuf} (b : Bool) (h : n ≤ B.idx) :
    captureBit n b B = { B with overlong := true } := by
  rw [captureBit, if_pos h]

/-- The bit goes into the byte at the cursor (R181, R182). -/
theorem captureBit_byteAt_idx {n : Nat} {B : FrameBuf} (b : Bool) (hwf : B.WF n) (hroom : B.idx < n) :
    byteAt (captureBit n b B).bytes B.idx = shiftIn (byteAt B.bytes B.idx) b := by
  rcases captureBit_cases n b B with ⟨hfull, _⟩ | ⟨_, idx, sub, e, _⟩
  · omega
  · rw [e]
    exact byteAt_set_self _ (by rw [hwf.length_eq]; exact hroom)

/-- Every other byte stays. -/
theorem captureBit_byteAt_ne {n k : Nat} {B : FrameBuf} (b : Bool) (h : B.idx ≠ k) :
    byteAt (captureBit n b B).bytes k = byteAt B.bytes k := by
  rcases captureBit_cases n b B with ⟨_, e⟩ | ⟨_, idx, sub, e, _⟩
  · rw [e]
  · rw [e]
    exact byteAt_set_ne _ h

/-- The cursor never goes back. -/
theorem captureBit_idx_le (n : Nat) (b : Bool) (B : FrameBuf) : B.idx ≤ (captureBit n b B).idx := by
  rcases captureBit_cases n b B with ⟨_, e⟩ | ⟨_, idx, sub, e, hcursor⟩
  · rw [e]
  · rw [e]
    change B.idx ≤ idx
    omega

/-- The bit that completes a byte moves the cursor past it. -/
theorem captureBit_idx_of_last {n : Nat} {B : FrameBuf} (b : Bool) (hroom : B.idx < n) (hlast : B.idx = 1 ∨ B.sub = 7) :
    B.idx < (captureBit n b B).idx := by
  rcases captureBit_cases n b B with ⟨hfull, _⟩ | ⟨_, idx, sub, e, hcursor⟩
  · omega
  · rw [e]
    change B.idx < idx
    omega

/-! ## A byte behind the cursor -/

/-- Later bits leave a byte that is complete, by induction on them. -/
theorem captureBits_append_byteAt {n k : Nat} {bits : List Bool} (h : k < (captureBits n bits).idx)
    (later : List Bool) :
    byteAt (captureBits n (bits ++ later)).bytes k = byteAt (captureBits n bits).bytes k ∧
      k < (captureBits n (bits ++ later)).idx := by
  induction later using List.reverseRecOn with
  | nil => simpa using h
  | append_singleton later b ih =>
    obtain ⟨hbyte, hbehind⟩ := ih
    rw [← List.append_assoc, captureBits_append_singleton, captureBit_byteAt_ne b hbehind.ne']
    exact ⟨hbyte, hbehind.trans_le (captureBit_idx_le n b _)⟩

/-- The byte at the cursor, where the next bit completes it, as every longer frame holds it. -/
theorem captureBits_completed_byte {n : Nat} {first : List Bool} (b : Bool) (later : List Bool)
    (hroom : (captureBits n first).idx < n) (hlast : (captureBits n first).idx = 1 ∨ (captureBits n first).sub = 7) :
    byteAt (captureBits n (first ++ b :: later)).bytes (captureBits n first).idx =
      shiftIn (byteAt (captureBits n first).bytes (captureBits n first).idx) b := by
  have hbehind : (captureBits n first).idx < (captureBits n (first ++ [b])).idx := by
    rw [captureBits_append_singleton]
    exact captureBit_idx_of_last b hroom hlast
  rw [List.append_cons, (captureBits_append_byteAt hbehind later).1, captureBits_append_singleton,
    captureBit_byteAt_idx b (captureBits_wf n first) hroom]

/-- A completed byte holds the last eight bits that made it, the first of them at bit 7 (R83). -/
theorem captureBits_completed_getLsbD {n : Nat} {first : List Bool} (b : Bool) (later : List Bool)
    (hroom : (captureBits n first).idx < n) (hlen : 7 ≤ first.length) (hsub : (captureBits n first).sub = 7) {j : Nat}
    (hj : j < 8) :
    (byteAt (captureBits n (first ++ b :: later)).bytes (captureBits n first).idx).getLsbD (7 - j) =
      (first ++ b :: later).getD (first.length - 7 + j) false := by
  rw [captureBits_completed_byte b later hroom (.inr hsub), shiftIn_getLsbD _ _ _ (by omega)]
  by_cases hnew : 7 - j = 0
  · have hplace : first.length - 7 + j = first.length := by omega
    rw [if_pos hnew, hplace, List.getD_append_right _ _ _ _ (Nat.le_refl _), Nat.sub_self]
    rfl
  · rw [if_neg hnew, captureBits_holdsLatest n first _ (by omega), List.getD_reverse _ (by omega),
      List.getD_append _ _ _ _ (by omega)]
    congr 1
    omega

/-! ## Where the cursor stands -/

/-- With the last bit of a byte missing, seven bits are in it (R82). -/
theorem FrameBuf.WF.cursor_of_seven {n k : Nat} {B : FrameBuf} (h : B.WF n)
    (hbits : (k = 0 ∧ B.bits = 7) ∨ (2 ≤ k ∧ B.bits = 8 * k)) : B.idx = k ∧ B.sub = 7 := by
  have hcursor := h.bits_eq
  have hsub := h.sub_le
  unfold cursorBits at hcursor
  split_ifs at hcursor <;> omega

/-- After eight bits the stop-bit slot is next (R82). -/
theorem FrameBuf.WF.cursor_of_eight {n : Nat} {B : FrameBuf} (h : B.WF n) (hbits : B.bits = 8) :
    B.idx = 1 ∧ B.sub = 0 := by
  have hcursor := h.bits_eq
  have hsub := h.sub_le
  have hslot := h.slot_sub
  unfold cursorBits at hcursor
  split_ifs at hcursor <;> omega

/-- A buffer with 8·N − 7 bits is full (R84). -/
theorem FrameBuf.WF.idx_of_capacity {n : Nat} {B : FrameBuf} (hn : 3 ≤ n) (h : B.WF n) (hbits : B.bits = 8 * n - 7) :
    B.idx = n := by
  have hcursor := h.bits_eq
  have hsub := h.sub_le
  have hle := h.idx_le
  unfold cursorBits at hcursor
  split_ifs at hcursor <;> omega

/-! ## The layout of a frame -/

/-- The byte that seven earlier bits and the next one fill holds those eight bits in their order. -/
theorem captureBits_byte_getLsbD {n k m : Nat} {bits : List Bool} (hn : 3 ≤ n) (hcap : bits.length ≤ 8 * n - 7)
    (hm : (k = 0 ∧ m = 7) ∨ (2 ≤ k ∧ m = 8 * k)) (hlen : m < bits.length) {j : Nat} (hj : j < 8) :
    (byteAt (captureBits n bits).bytes k).getLsbD (7 - j) = bits.getD (m - 7 + j) false := by
  have htake : (bits.take m).length = m := List.length_take_of_le hlen.le
  have hsplit : bits = bits.take m ++ bits[m] :: bits.drop (m + 1) := by
    rw [← List.drop_eq_getElem_cons hlen, List.take_append_drop]
  have hbits : (captureBits n (bits.take m)).bits = m := by
    rw [captureBits_bits (by omega) (by omega), htake]
  have hwf := captureBits_wf n (bits.take m)
  have hroom := hwf.idx_lt_of_bits_lt (by omega) (by omega)
  obtain ⟨hidx, hsub⟩ := hwf.cursor_of_seven (k := k) (by rwa [hbits])
  have hbyte := captureBits_completed_getLsbD bits[m] (bits.drop (m + 1)) hroom (by omega) hsub hj
  rwa [← hsplit, hidx, htake] at hbyte

/-- The ninth bit stands alone in byte 1 (R82). -/
theorem captureBits_slot {n : Nat} {bits : List Bool} (hn : 3 ≤ n) (hcap : bits.length ≤ 8 * n - 7)
    (hlen : 8 < bits.length) : byteAt (captureBits n bits).bytes 1 = if bits.getD 8 false then 1 else 0 := by
  have htake : (bits.take 8).length = 8 := List.length_take_of_le hlen.le
  have hsplit : bits = bits.take 8 ++ bits[8] :: bits.drop 9 := by
    rw [← List.drop_eq_getElem_cons hlen, List.take_append_drop]
  have hbits : (captureBits n (bits.take 8)).bits = 8 := by
    rw [captureBits_bits (by omega) (by omega), htake]
  have hwf := captureBits_wf n (bits.take 8)
  have hroom := hwf.idx_lt_of_bits_lt (by omega) (by omega)
  obtain ⟨hidx, hsub⟩ := hwf.cursor_of_eight hbits
  have hempty : byteAt (captureBits n (bits.take 8)).bytes 1 = 0 := by
    have hsmall := hwf.partial_small
    rw [hidx, hsub] at hsmall
    exact BitVec.eq_of_toNat_eq (Nat.lt_one_iff.1 hsmall)
  have hbyte := captureBits_completed_byte bits[8] (bits.drop 9) hroom (.inl hidx)
  rw [← hsplit, hidx, hempty] at hbyte
  rw [hbyte, List.getD_eq_getElem _ _ hlen]
  cases bits[8] <;> rfl

/-- Settles O28: byte 0 and each byte past the slot from their eight bits, the slot from its one. -/
theorem frameBytesHoldTheBitsInOrder : Obligations.FrameBytesHoldTheBitsInOrder := by
  intro n bits hn hcap
  refine ⟨captureBits_bits (by omega) hcap, fun hlen j hj => ?_, captureBits_slot hn hcap, fun k hk hlen j hj => ?_⟩
  · simpa using captureBits_byte_getLsbD hn hcap (.inl ⟨rfl, rfl⟩) hlen hj
  · exact captureBits_byte_getLsbD hn hcap (.inr ⟨hk, rfl⟩) hlen hj

/-! ## Past capacity -/

/-- Within capacity no bit is dropped (R183). -/
theorem captureBits_not_overlong {n : Nat} (hn : 2 ≤ n) {bits : List Bool} (hcap : bits.length ≤ 8 * n - 7) :
    (captureBits n bits).overlong = false := by
  induction bits using List.reverseRecOn with
  | nil => rfl
  | append_singleton bs b ih =>
    rw [List.length_append, List.length_singleton] at hcap
    have hbits := captureBits_bits hn (bits := bs) (by omega)
    have hroom := (captureBits_wf n bs).idx_lt_of_bits_lt hn (by omega)
    rw [captureBits_append_singleton]
    rcases captureBit_cases n b (captureBits n bs) with ⟨hfull, _⟩ | ⟨_, idx, sub, e, _⟩
    · omega
    · rw [e]
      exact ih (by omega)

/-- What a full buffer makes of more bits, by induction on them (R183). -/
theorem captureBits_append_of_full {n : Nat} {bits extra : List Bool} (hfull : n ≤ (captureBits n bits).idx)
    (hextra : extra ≠ []) : captureBits n (bits ++ extra) = { captureBits n bits with overlong := true } := by
  induction extra using List.reverseRecOn with
  | nil => exact absurd rfl hextra
  | append_singleton extra b ih =>
    rw [← List.append_assoc, captureBits_append_singleton]
    rcases List.eq_nil_or_concat extra with rfl | ⟨_, _, hcons⟩
    · rw [List.append_nil, captureBit_of_full b hfull]
    · rw [ih (by simp [hcons])]
      exact captureBit_of_full (B := { captureBits n bits with overlong := true }) b hfull

/-- Settles O30: the cursor of a full buffer, and what it makes of more bits. -/
theorem bitsPastCapacityAreDropped : Obligations.BitsPastCapacityAreDropped := by
  intro n bits extra hn hlen hextra
  have hbits := (captureBits_bits (by omega) hlen.le).trans hlen
  have hidx := (captureBits_wf n bits).idx_of_capacity hn hbits
  exact ⟨hidx, captureBits_not_overlong (by omega) hlen.le, captureBits_append_of_full hidx.ge hextra⟩

end Sys2Proof.Machine
end

section
/-! PROOFS. The panel half of a clock cycle, and whole cycles and frames (41_bit_capture.md R180 to R192, 30_encoding.md
R137, R138). -/

namespace Sys2Proof.Machine

/-! ## The panel half -/

/-- With the clock high a sample goes to the panel scratch, at the level the block reads (R180, R184, R189). -/
theorem handleSample_of_high {s : State} (d : Bool) (h : s.clk = true) :
    handleSample d s = { s with sampleDue := none, P := captureBit s.params.N (d && !s.writeLow) s.P } := by
  rw [handleSample, if_pos h]
  rfl

/-- Settles O24: the panel branch of a sample with no gap. -/
theorem panelHalfSampleResult : Obligations.PanelHalfSampleResult := by
  intro s d hfires hhigh hnogap
  rw [exec_sample d hfires, takeSample_of_no_gap d hnogap, handleSample_of_high d hhigh]

/-- Settles O25: the invariant has the line released while the clock is high. -/
theorem panelHalfReadsTheBusLevel : Obligations.PanelHalfReadsTheBusLevel := by
  intro s d hinv hfires hhigh hnogap
  have hlevel : (d && !s.writeLow) = d := by rw [hinv.high_released hhigh, Bool.not_false, Bool.and_true]
  rw [panelHalfSampleResult s d hfires hhigh hnogap, hlevel]

/-! ## Lists of operations -/

theorem execAll_append {is : List Instr} {s t : State} (js : List Instr) (h : execAll is s = .next t) :
    execAll (is ++ js) s = execAll js t := by
  induction is generalizing s with
  | nil =>
    cases h
    rfl
  | cons i is ih =>
    obtain ⟨u, hu⟩ := exists_next_of_exec i s
    rw [execAll_cons is hu] at h
    rw [List.cons_append, execAll_cons (is ++ js) hu, ih h]

/-! ## The two halves of a clock cycle -/

/-- What the high half of a cycle leaves: the bit `p` in the panel scratch, after `w` µs more (R137). -/
def highHalf (p : Bool) (w : Nat) (s : State) : State :=
  { s with
    clk := true
    lastRise := s.now
    writeLow := false
    P := captureBit s.params.N p s.P
    now := s.now + 250 + w }

/-- What the low half leaves: the falling edge, the module sample 250 µs later, and 250 µs more (R137). -/
def lowHalf (m : Bool) (s : State) : State :=
  { takeSample m { fallingEdge s with now := s.now + 250 } with now := s.now + 500 }

/-- A WAIT up to the deadline of a timer just armed for 250 µs. -/
theorem exec_wait_to_deadline {s : State} (h : s.sampleDue = some (s.now + 250)) :
    exec (.wait 250) s = .next { s with now := s.now + 250 } := by
  have hclear : ¬ TimerFires s := fun hfires => by
    have := Option.some.inj (h.symm.trans hfires)
    omega
  have hwithin : ∀ due ∈ s.sampleDue, s.now + 250 ≤ due := fun due hdue => by
    have := Option.some.inj (h.symm.trans hdue)
    omega
  rw [exec_wait 250 hclear]
  exact congrArg Host.Outcome.next (passTime_of_within hwithin)

/-- With no deadline armed every WAIT passes (R166). -/
theorem exec_wait_unarmed {s : State} (delta : BitVec 24) (h : s.sampleDue = none) :
    exec (.wait delta) s = .next { s with now := s.now + delta.toNat } := by
  have hclear : ¬ TimerFires s := fun hfires => by cases h.symm.trans hfires
  rw [exec_wait delta hclear, passTime_of_within fun due hdue => by cases h.symm.trans hdue]

section
variable {s : State} (hdelay : s.params.sampleDelayUs = 250) (hunarmed : s.sampleDue = none)
include hdelay hunarmed

/-- The four operations of a high half, with no gap seen in it. -/
theorem execAll_highHalf (p : Bool) (w : BitVec 24) (hnogap : s.clockHighTime ≤ s.params.gapUs) (rest : List Instr) :
    execAll (.edge true :: .wait 250 :: .sample p :: .wait w :: rest) s = execAll rest (highHalf p w.toNat s) := by
  have hclear : ¬ TimerFires s := fun hfires => by cases hunarmed.symm.trans hfires
  have harmed : (risingEdge s).sampleDue = some ((risingEdge s).now + 250) := by rw [risingEdge_eq, hdelay]
  rw [execAll_cons _ (exec_edge true hclear)]
  change execAll _ (risingEdge s) = _
  rw [execAll_cons _ (exec_wait_to_deadline harmed), execAll_cons _ (exec_sample p harmed),
    execAll_cons _ (exec_wait_unarmed w (takeSample_sampleDue p _)),
    takeSample_of_no_gap (s := { risingEdge s with now := (risingEdge s).now + 250 }) p hnogap,
    handleSample_of_high (s := { risingEdge s with now := (risingEdge s).now + 250 }) p rfl]
  simp only [risingEdge_eq, highHalf, hunarmed, Bool.not_false, Bool.and_true]

/-- The four operations of a low half. -/
theorem execAll_lowHalf (m : Bool) (rest : List Instr) :
    execAll (.edge false :: .wait 250 :: .sample m :: .wait 250 :: rest) s = execAll rest (lowHalf m s) := by
  have hclear : ¬ TimerFires s := fun hfires => by cases hunarmed.symm.trans hfires
  have hnow : (fallingEdge s).now = s.now := by rw [fallingEdge_frame]
  have harmed : (fallingEdge s).sampleDue = some ((fallingEdge s).now + 250) := by
    rw [hnow, fallingEdge_frame, hdelay]
  rw [execAll_cons _ (exec_edge false hclear)]
  change execAll _ (fallingEdge s) = _
  rw [execAll_cons _ (exec_wait_to_deadline harmed), execAll_cons _ (exec_sample m harmed),
    execAll_cons _ (exec_wait_unarmed 250 (takeSample_sampleDue m _)), takeSample_now, hnow]
  rfl

end

/-! ## What a low half leaves of the capture stage -/

/-- A low half with no gap touches neither the panel frame nor the queue (R185, R192). -/
theorem lowHalf_of_no_gap {s : State} (m : Bool) (h : s.now - s.lastRise ≤ s.params.gapUs) :
    lowHalf m s = { lowHalf m s with
      params := s.params
      now := s.now + 500
      sampleDue := none
      refusals := s.refusals
      P := s.P
      Q := s.Q
      lastGap := s.lastGap
      T05 := s.T05
      T1B := s.T1B
      clockHighTime := s.now - s.lastRise
      overflow := s.overflow } := by
  have hnogap : (fallingEdge s).clockHighTime ≤ (fallingEdge s).params.gapUs := by
    rw [fallingEdge_frame]
    exact h
  rw [lowHalf, takeSample_of_no_gap (s := { fallingEdge s with now := s.now + 250 }) m hnogap, handleSample_eq,
    fallingEdge_frame]
  rfl

/-- The queue after a completion of the panel frame `B` (R198, R199). -/
def queueWith (B : FrameBuf) (s : State) : List Entry :=
  if ¬ TooShort B ∧ ¬ RepeatsStatus s B ∧ s.Q.length ≠ s.params.QCAP then s.Q ++ [entryOf B] else s.Q

theorem queueWith_congr {s t : State} (B : FrameBuf) (hparams : t.params = s.params) (hQ : t.Q = s.Q)
    (hT05 : t.T05 = s.T05) (hT1B : t.T1B = s.T1B) : queueWith B t = queueWith B s := by
  unfold queueWith RepeatsStatus
  rw [hparams, hQ, hT05, hT1B]

theorem complete_Q (s : State) : (complete s).Q = queueWith s.P s := by
  rw [complete_eq]
  exact if_congr (by rw [not_or, and_assoc]) rfl rfl

theorem complete_P (s : State) : (complete s).P = emptyBuf s.params.N := by rw [complete_eq]

theorem complete_clockHighTime (s : State) : (complete s).clockHighTime = 0 := by rw [complete_eq]

theorem complete_lastGap (s : State) : (complete s).lastGap = s.now / 1000 := by rw [complete_eq]

/-- With the clock low a SAMPLE leaves what a completion of the panel frame reads. -/
theorem queueWith_handleSample {s : State} (m : Bool) (hlow : s.clk = false) :
    queueWith (handleSample m s).P (handleSample m s) = queueWith s.P s := by
  have hpanel : panelAfter m s = s.P := if_neg (Bool.eq_false_iff.1 hlow)
  rw [handleSample_eq, hpanel]
  exact queueWith_congr s.P rfl rfl rfl rfl

/-- A sample with a gap in the low half completes the panel frame (R196 to R202). -/
theorem takeSample_of_low_gap {s : State} (m : Bool) (hlow : s.clk = false) (hgap : s.params.gapUs < s.clockHighTime) :
    (takeSample m s).P = emptyBuf s.params.N ∧ (takeSample m s).clockHighTime = 0 ∧
      (takeSample m s).lastGap = s.now / 1000 ∧ (takeSample m s).Q = queueWith s.P s := by
  rw [takeSample_of_gap m hgap, complete_P, complete_clockHighTime, complete_lastGap, complete_Q,
    queueWith_handleSample m hlow, handleSample_eq]
  exact ⟨rfl, rfl, rfl, rfl⟩

/-- A low half with a gap in it does so 250 µs after its edge. -/
theorem lowHalf_of_gap {s : State} (m : Bool) (h : s.params.gapUs < s.now - s.lastRise) :
    (lowHalf m s).now = s.now + 500 ∧ (lowHalf m s).refusals = s.refusals ∧ (lowHalf m s).P = emptyBuf s.params.N ∧
      (lowHalf m s).clockHighTime = 0 ∧ (lowHalf m s).sampleDue = none ∧
      (lowHalf m s).lastGap = (s.now + 250) / 1000 ∧ (lowHalf m s).Q = queueWith s.P s := by
  have hlow : (fallingEdge s).clk = false := by rw [fallingEdge_frame]
  have hgap : (fallingEdge s).params.gapUs < (fallingEdge s).clockHighTime := by
    rw [fallingEdge_frame]
    exact h
  obtain ⟨hP, hhigh, hlastGap, hQ⟩ :=
    takeSample_of_low_gap (s := { fallingEdge s with now := s.now + 250 }) m hlow hgap
  refine ⟨rfl, ?_, hP.trans ?_, hhigh, takeSample_sampleDue m _, hlastGap, hQ.trans ?_⟩
  · exact (takeSample_refusals m _).trans (clockEdge_refusals false s)
  · change emptyBuf (fallingEdge s).params.N = emptyBuf s.params.N
    rw [fallingEdge_frame]
  · change queueWith (fallingEdge s).P { fallingEdge s with now := s.now + 250 } = queueWith s.P s
    rw [fallingEdge_frame]
    exact queueWith_congr s.P rfl rfl rfl rfl

/-! ## One cycle, one frame -/

/-- Settles O32: a high half and a low half of 500 µs each. -/
theorem bitCycleCapturesItsBit : Obligations.BitCycleCapturesItsBit := by
  intro s p m hdelay hgap hunarmed hnogap
  have hhigh : (highHalf p 250 s).now - (highHalf p 250 s).lastRise ≤ (highHalf p 250 s).params.gapUs := by
    change s.now + 250 + 250 - s.now ≤ s.params.gapUs
    omega
  refine ⟨lowHalf m (highHalf p 250 s), ?_, ?_⟩
  · rw [pseudoBit, execAll_highHalf hdelay hunarmed p 250 hnogap,
      execAll_lowHalf (s := highHalf p (250 : BitVec 24).toNat s) hdelay hunarmed]
    rfl
  · rw [lowHalf_of_no_gap m hhigh]
    refine ⟨rfl, rfl, rfl, rfl, rfl, rfl, rfl, rfl, ?_, rfl, rfl⟩
    change s.now + 250 + 250 - s.now = 500
    omega

/-- The last cycle of a frame: its bit, and the gap that completes the frame (R137, R196). -/
theorem execAll_pseudoGap {s : State} (p m : Bool) (hdelay : s.params.sampleDelayUs = 250)
    (hgap : s.params.gapUs < 1500) (hunarmed : s.sampleDue = none) (hnogap : s.clockHighTime ≤ s.params.gapUs) :
    ∃ t, execAll (pseudoGap p m) s = .next t ∧ t.now = s.now + 2000 ∧ t.refusals = s.refusals ∧
      t.P = emptyBuf s.params.N ∧ t.clockHighTime = 0 ∧ t.sampleDue = none ∧ t.lastGap = (s.now + 1750) / 1000 ∧
      t.Q = queueWith (captureBit s.params.N p s.P) s := by
  have hhigh : (highHalf p 1250 s).params.gapUs < (highHalf p 1250 s).now - (highHalf p 1250 s).lastRise := by
    change s.params.gapUs < s.now + 250 + 1250 - s.now
    omega
  refine ⟨lowHalf m (highHalf p 1250 s), ?_, ?_⟩
  · rw [pseudoGap, execAll_highHalf hdelay hunarmed p 1250 hnogap,
      execAll_lowHalf (s := highHalf p (1250 : BitVec 24).toNat s) hdelay hunarmed]
    rfl
  · exact lowHalf_of_gap m hhigh

/-- The panel scratch after more bits (R181). -/
def panelWith (bits : List Bool) (s : State) : FrameBuf := bits.foldl (fun B b => captureBit s.params.N b B) s.P

/-- The cycles of FRAME sent on top of the bits already in the panel scratch, by induction on its bits (R137, R138). -/
theorem execAll_pseudoFrame {s : State} {bits : List Bool} (hdelay : s.params.sampleDelayUs = 250)
    (hbit : 500 ≤ s.params.gapUs) (hgap : s.params.gapUs < 1500) (hunarmed : s.sampleDue = none)
    (hnogap : s.clockHighTime ≤ s.params.gapUs) (hbits : bits ≠ []) :
    ∃ t, execAll (pseudoFrame bits) s = .next t ∧ t.now = s.now + 1000 * bits.length + 1000 ∧
      t.refusals = s.refusals ∧ t.P = emptyBuf s.params.N ∧ t.clockHighTime = 0 ∧ t.sampleDue = none ∧
      t.lastGap = (s.now + 1000 * bits.length + 750) / 1000 ∧ t.Q = queueWith (panelWith bits s) s := by
  induction bits generalizing s with
  | nil => exact absurd rfl hbits
  | cons b bits ih =>
    cases bits with
    | nil => exact execAll_pseudoGap b true hdelay hgap hunarmed hnogap
    | cons c bits =>
      obtain ⟨u, hu, hnow, hdue, hrefusals, hP, hQ, _, hT05, hT1B, hhigh, _, hparams⟩ :=
        bitCycleCapturesItsBit s b true hdelay hbit hunarmed hnogap
      have hpanel : panelWith (c :: bits) u = panelWith (b :: c :: bits) s := by
        rw [panelWith, panelWith, hP, hparams, List.foldl_cons (a := b)]
      rw [← hparams] at hdelay hbit hgap ⊢
      obtain ⟨t, ht, hnow', hrefusals', hP', hhigh', hdue', hlastGap, hQ'⟩ :=
        ih hdelay hbit hgap hdue (by omega) (List.cons_ne_nil c bits)
      have htime : u.now + 1000 * (c :: bits).length = s.now + 1000 * (b :: c :: bits).length := by
        rw [hnow, List.length_cons (a := b)]
        omega
      rw [← htime]
      exact ⟨t, (execAll_append _ hu).trans ht, hnow', hrefusals'.trans hrefusals, hP', hhigh', hdue', hlastGap,
        hQ'.trans (hpanel ▸ queueWith_congr _ hparams hQ hT05 hT1B)⟩

/-- Settles O33: from an empty panel scratch the frame's bits are the whole frame. -/
theorem frameNotationSendsOneFrame : Obligations.FrameNotationSendsOneFrame := by
  intro s bits hdelay hbit hgap hunarmed hnogap hP hbits
  have hframe : panelWith bits s = captureBits s.params.N bits := by rw [panelWith, hP, captureBits]
  rw [← hframe]
  exact execAll_pseudoFrame hdelay hbit hgap hunarmed hnogap hbits

end Sys2Proof.Machine
end

section
/-! PROOFS. Which operations write the stored flags (10_state.md R48). -/

namespace Sys2Proof.Machine

/-! ## The flags an operation does not write -/

/-- The stored flags that the operation `i`, by the table of R48, has no part in are the same in `s` and `t`. -/
structure FlagsKept (i : Instr) (s t : State) : Prop where
  capture : (∀ d, i ≠ .sample d) →
    t.P = s.P ∧ t.M = s.M ∧ t.modActivity = s.modActivity ∧ t.modSkipped = s.modSkipped
  overflow : (∀ d, i ≠ .sample d) → i ≠ .ackovf → t.overflow = s.overflow
  captured : (∀ d, i ≠ .sample d) → i ≠ .pollm → t.captured = s.captured
  consumer : i ≠ .pollp → t.connected = s.connected ∧ t.changed = s.changed ∧ t.gateOpen = s.gateOpen
  polled : i ≠ .pollp → i ≠ .pollm → t.polled = s.polled
  writeLow : (∀ l, i ≠ .edge l) → t.writeLow = s.writeLow

/-- An edge writes the line sampler's fields and the injector's. -/
theorem clockEdge_flagsKept (l : Bool) (s : State) : FlagsKept (.edge l) s (clockEdge l s) := by
  cases l
  · change FlagsKept _ s (fallingEdge s)
    rw [fallingEdge_frame]
    exact ⟨fun _ => ⟨rfl, rfl, rfl, rfl⟩, fun _ _ => rfl, fun _ _ => rfl, fun _ => ⟨rfl, rfl, rfl⟩, fun _ _ => rfl,
      fun h => absurd rfl (h false)⟩
  · exact ⟨fun _ => ⟨rfl, rfl, rfl, rfl⟩, fun _ _ => rfl, fun _ _ => rfl, fun _ => ⟨rfl, rfl, rfl⟩, fun _ _ => rfl,
      fun h => absurd rfl (h true)⟩

/-- A sample drives nothing (R189, R240). -/
@[simp] theorem takeSample_writeLow (d : Bool) (s : State) : (takeSample d s).writeLow = s.writeLow := by
  have hhandle : (handleSample d s).writeLow = s.writeLow := by rw [handleSample_eq]
  unfold takeSample
  split
  · rw [complete_eq]
    exact hhandle
  · exact hhandle

theorem takeSample_flagsKept (d : Bool) (s : State) : FlagsKept (.sample d) s (takeSample d s) := by
  have hlow := takeSample_writeLow d s
  rw [takeSample_frame] at hlow ⊢
  exact ⟨fun h => absurd rfl (h d), fun h => absurd rfl (h d), fun h => absurd rfl (h d), fun _ => ⟨rfl, rfl, rfl⟩,
    fun _ _ => rfl, fun _ => hlow⟩

theorem pollPanel_flagsKept (s : State) : FlagsKept .pollp s (pollPanel s) := by
  rw [pollPanel_frame, pollBegun_frame]
  exact ⟨fun _ => ⟨rfl, rfl, rfl, rfl⟩, fun _ _ => rfl, fun _ _ => rfl, fun h => absurd rfl h, fun h => absurd rfl h,
    fun _ => rfl⟩

theorem pollModule_flagsKept (s : State) : FlagsKept .pollm s (pollModule s) := by
  unfold pollModule
  split
  all_goals exact ⟨fun _ => ⟨rfl, rfl, rfl, rfl⟩, fun _ _ => rfl, fun _ h => absurd rfl h, fun _ => ⟨rfl, rfl, rfl⟩,
    fun _ h => absurd rfl h, fun _ => rfl⟩

theorem acknowledge_flagsKept (s : State) : FlagsKept .ackovf s (acknowledge s) :=
  ⟨fun _ => ⟨rfl, rfl, rfl, rfl⟩, fun _ h => absurd rfl h, fun _ _ => rfl, fun _ => ⟨rfl, rfl, rfl⟩, fun _ _ => rfl,
    fun _ => rfl⟩

/-- A state that differs in none of the flags' fields. -/
theorem flagsKept_of_same (i : Instr) (s : State) (result : Option OpResult) (cfgModule cfgRedundant : Bool) (now : Nat)
    (wstate : WState) (wkey : Key) (seq : List Key) (refusals : List RefuseReason) :
    FlagsKept i s { s with
      result := result, cfgModule := cfgModule, cfgRedundant := cfgRedundant, now := now, wstate := wstate
      wkey := wkey, seq := seq, refusals := refusals } :=
  ⟨fun _ => ⟨rfl, rfl, rfl, rfl⟩, fun _ _ => rfl, fun _ _ => rfl, fun _ => ⟨rfl, rfl, rfl⟩, fun _ _ => rfl,
    fun _ => rfl⟩

/-- Every operation but RESET keeps the flags it has no part in. -/
theorem exec_flagsKept {i : Instr} {s t : State} (hreset : i ≠ .reset) (h : exec i s = .next t) : FlagsKept i s t := by
  rcases result_of_exec h with rfl | ⟨r, rfl⟩
  case inr => apply flagsKept_of_same
  cases i with
  | edge l => exact clockEdge_flagsKept l s
  | sample d => exact takeSample_flagsKept d s
  | pollp => exact pollPanel_flagsKept s
  | pollm => exact pollModule_flagsKept s
  | ackovf => exact acknowledge_flagsKept s
  | reset => exact absurd rfl hreset
  | wrkey k =>
    change FlagsKept _ s (writeKey k s)
    rw [writeKey_frame]
    apply flagsKept_of_same
  | wrseq ks =>
    change FlagsKept _ s (writeSequence ks s)
    rw [writeSequence_frame]
    apply flagsKept_of_same
  | wait delta =>
    change FlagsKept _ s (passTime delta.toNat s)
    rw [passTime_frame]
    apply flagsKept_of_same
  | config m r =>
    change FlagsKept _ s (configure m r s)
    unfold configure
    split
    all_goals apply flagsKept_of_same
  | status => apply flagsKept_of_same

/-! ## The flags a SAMPLE writes -/

theorem captureBit_overlong_of_set {n : Nat} {b : Bool} {B : FrameBuf} (hclear : B.overlong = false)
    (hset : (captureBit n b B).overlong = true) : n ≤ B.idx := by
  rcases captureBit_cases n b B with ⟨hfull, _⟩ | ⟨_, idx, sub, e, _⟩
  · exact hfull
  · rw [e] at hset
    cases hclear.symm.trans hset

theorem captureBit_overlong_of_overlong {n : Nat} (b : Bool) {B : FrameBuf} (h : B.overlong = true) :
    (captureBit n b B).overlong = true := by
  rcases captureBit_cases n b B with ⟨_, e⟩ | ⟨_, idx, sub, e, _⟩
  · rw [e]
  · rw [e]
    exact h

/-- The rows of R48's table that a SAMPLE has a part in. -/
structure SampleFlags (d : Bool) (s t : State) : Prop where
  overflow_set : s.overflow = false → t.overflow = true →
    Completes s ∧ KeepsFrame d s ∧ s.Q.length = s.params.QCAP
  overflow_kept : s.overflow = true → t.overflow = true
  captured_set : s.captured = false → t.captured = true →
    Completes s ∧ activityAfter d s = true ∧ skippedAfter s = false
  captured_kept : s.captured = true → t.captured = true
  activity_set : s.modActivity = false → t.modActivity = true → ModuleCaptured s ∧ (d && !s.writeLow) = false
  activity_cleared : s.modActivity = true → t.modActivity = false → Completes s
  skipped_set : s.modSkipped = false → t.modSkipped = true → ModuleSkipped s
  skipped_cleared : s.modSkipped = true → t.modSkipped = false → Completes s
  panel_set : s.P.overlong = false → t.P.overlong = true → s.clk = true ∧ s.params.N ≤ s.P.idx
  panel_cleared : s.P.overlong = true → t.P.overlong = false → Completes s
  module_set : s.M.overlong = false → t.M.overlong = true → ModuleCaptured s ∧ s.params.N ≤ s.M.idx
  module_cleared : s.M.overlong = true → t.M.overlong = false → Completes s

theorem eq_true_of_ite {c : Prop} [Decidable c] {b : Bool} (hb : b = false)
    (h : (if c then true else b) = true) : c := by
  by_contra hc
  rw [if_neg hc, hb] at h
  cases h

/-- A completion sets the sticky flags by their conditions and clears the scratch (R199 to R202). -/
theorem sampleFlags_of_completes {d : Bool} {s t : State} (hc : Completes s) (h : exec (.sample d) s = .next t) :
    SampleFlags d s t := by
  cases (completionResult s d hc).symm.trans h
  exact {
    overflow_set := fun hb hset => ⟨hc, eq_true_of_ite hb hset⟩
    overflow_kept := fun hb => by simp [hb]
    captured_set := fun hb hset => ⟨hc, eq_true_of_ite hb hset⟩
    captured_kept := fun hb => by simp [hb]
    activity_set := fun _ hset => by cases hset
    activity_cleared := fun _ _ => hc
    skipped_set := fun _ hset => by cases hset
    skipped_cleared := fun _ _ => hc
    panel_set := fun _ hset => by cases hset
    panel_cleared := fun _ _ => hc
    module_set := fun _ hset => by cases hset
    module_cleared := fun _ _ => hc }

/-- The capture of one bit sets the scratch's flags by their conditions (R183, R190, R191). -/
theorem handleSample_sampleFlags (d : Bool) (s : State) : SampleFlags d s (handleSample d s) := by
  rw [handleSample_eq]
  exact {
    overflow_set := fun hb hset => by cases hb.symm.trans hset
    overflow_kept := id
    captured_set := fun hb hset => by cases hb.symm.trans hset
    captured_kept := id
    activity_set := fun hb (hset : activityAfter d s = true) => by
      rwa [activityAfter, hb, Bool.false_or, decide_eq_true_eq] at hset
    activity_cleared := fun hb (hcleared : activityAfter d s = false) => by simp [activityAfter, hb] at hcleared
    skipped_set := fun hb (hset : skippedAfter s = true) => by
      rwa [skippedAfter, hb, Bool.false_or, decide_eq_true_eq] at hset
    skipped_cleared := fun hb (hcleared : skippedAfter s = false) => by simp [skippedAfter, hb] at hcleared
    panel_set := fun hb (hset : (panelAfter d s).overlong = true) => by
      unfold panelAfter at hset
      split at hset
      next hhigh => exact ⟨hhigh, captureBit_overlong_of_set hb hset⟩
      next => cases hb.symm.trans hset
    panel_cleared := fun hb (hcleared : (panelAfter d s).overlong = false) => by
      unfold panelAfter at hcleared
      split at hcleared
      next => cases (captureBit_overlong_of_overlong _ hb).symm.trans hcleared
      next => cases hb.symm.trans hcleared
    module_set := fun hb (hset : (moduleAfter d s).overlong = true) => by
      unfold moduleAfter at hset
      split at hset
      next hcaptured => exact ⟨hcaptured, captureBit_overlong_of_set hb hset⟩
      next => cases hb.symm.trans hset
    module_cleared := fun hb (hcleared : (moduleAfter d s).overlong = false) => by
      unfold moduleAfter at hcleared
      split at hcleared
      next => cases (captureBit_overlong_of_overlong _ hb).symm.trans hcleared
      next => cases hb.symm.trans hcleared }

/-- A state with the same flags of the capture stage has changed none of them. -/
theorem sampleFlags_of_same {s t : State} (d : Bool) (hoverflow : t.overflow = s.overflow)
    (hcaptured : t.captured = s.captured)
    (hscratch : t.P = s.P ∧ t.M = s.M ∧ t.modActivity = s.modActivity ∧ t.modSkipped = s.modSkipped) :
    SampleFlags d s t := by
  obtain ⟨hP, hM, hactivity, hskipped⟩ := hscratch
  constructor <;> simp_all

theorem exec_sampleFlags {d : Bool} {s t : State} (h : exec (.sample d) s = .next t) : SampleFlags d s t := by
  rcases exec_sample_cases h with ⟨hc, _⟩ | ⟨r, rfl⟩ | rfl
  · exact sampleFlags_of_completes hc h
  · exact sampleFlags_of_same d rfl rfl ⟨rfl, rfl, rfl, rfl⟩
  · exact handleSample_sampleFlags d s

/-! ## The flags of the other operations -/

/-- No frame closes the gate (R266). -/
theorem consumeFrame_gateOpen {e : Entry} {s : State} (h : s.gateOpen = true) : (consumeFrame e s).gateOpen = true := by
  rcases consumeFrame_cases e s with ⟨_, heq⟩ | ⟨_, _, heq⟩ | ⟨_, _, _, _, heq⟩ | ⟨_, _, _, heq⟩
  · rw [heq]
    exact h
  · rw [heq]
    rfl
  · rw [heq, loopRemembers_eq]
    rfl
  · rw [heq, loopRemembers_eq]
    rfl

/-- The gate, once open, stays open until RESET (R266). -/
theorem pollPanel_gateOpen {s : State} (h : s.gateOpen = true) : (pollPanel s).gateOpen = true := by
  rcases pollPanel_cases s with ⟨_, e⟩ | ⟨_, _, e⟩ | ⟨hlive, e, rest, hQ, _⟩
  · rw [e, pollBegun_frame]
    exact h
  · rw [e, pollBegun_frame]
    exact h
  · rw [pollPanel_of_frame hlive hQ]
    exact consumeFrame_gateOpen ((dequeued_gateOpen s rest).trans h)

theorem pollModule_captured {s : State} (h : s.captured = false) : (pollModule s).captured = false := by
  rw [pollModule_of_not_captured h]
  exact h

@[simp] theorem pollModule_polled (s : State) : (pollModule s).polled = true := by
  unfold pollModule
  split <;> rfl

/-- ACKOVF never sets the overflow flag (R284). -/
theorem overflow_of_exec_ackovf {s t : State} (h : exec .ackovf s = .next t) (hclear : s.overflow = false) :
    t.overflow = false := by
  rcases result_of_exec h with rfl | ⟨r, rfl⟩
  · rfl
  · exact hclear

/-- POLLM never marks a module frame unread (R280). -/
theorem captured_of_exec_pollm {s t : State} (h : exec .pollm s = .next t) (hread : s.captured = false) :
    t.captured = false := by
  rcases result_of_exec h with rfl | ⟨r, rfl⟩
  · exact pollModule_captured hread
  · exact hread

theorem gateOpen_of_exec {i : Instr} {s t : State} (hreset : i ≠ .reset) (h : exec i s = .next t)
    (hopen : s.gateOpen = true) : t.gateOpen = true := by
  by_cases hpoll : i = .pollp
  · subst hpoll
    rcases result_of_exec h with rfl | ⟨r, rfl⟩
    · exact pollPanel_gateOpen hopen
    · exact hopen
  · exact ((exec_flagsKept hreset h).consumer hpoll).2.2.trans hopen

theorem polled_of_exec {i : Instr} {s t : State} (hreset : i ≠ .reset) (h : exec i s = .next t)
    (hpolled : s.polled = true) : t.polled = true := by
  by_cases hpollp : i = .pollp
  · subst hpollp
    rcases result_of_exec h with rfl | ⟨r, rfl⟩
    · exact pollPanel_polled s
    · exact hpolled
  by_cases hpollm : i = .pollm
  · subst hpollm
    rcases result_of_exec h with rfl | ⟨r, rfl⟩
    · exact pollModule_polled s
    · exact hpolled
  exact ((exec_flagsKept hreset h).polled hpollp hpollm).trans hpolled

/-- A rising edge restores the line (R162). -/
theorem writeLow_of_exec_rising {s t : State} (h : exec (.edge true) s = .next t) (hhigh : s.writeLow = false) :
    t.writeLow = false := by
  rcases result_of_exec h with rfl | ⟨r, rfl⟩
  · rfl
  · exact hhigh

/-- An operation under which the line goes low is a falling edge (R240). -/
theorem falling_of_writeLow {i : Instr} {s t : State} (hreset : i ≠ .reset) (h : exec i s = .next t)
    (hhigh : s.writeLow = false) (hlow : t.writeLow = true) : i = .edge false := by
  by_cases hedge : ∃ l, i = .edge l
  · obtain ⟨l, rfl⟩ := hedge
    cases l with
    | false => rfl
    | true => cases (writeLow_of_exec_rising h hhigh).symm.trans hlow
  · have hsame := (exec_flagsKept hreset h).writeLow fun l e => hedge ⟨l, e⟩
    cases hhigh.symm.trans (hsame.symm.trans hlow)

/-! ## The table -/

/-- A flag that is the same before and after has not changed. -/
theorem false_of_change {before after x : Bool} (hsame : after = before) (hbefore : before = x) (hafter : after = !x) :
    False := by
  subst hsame hbefore
  cases after <;> cases hafter

/-- The rows of the consumer's flags and of the line, which hold of every operation alike. -/
theorem exec_consumer_flags {i : Instr} {s t : State} (hreset : i ≠ .reset) (h : exec i s = .next t) :
    (t.connected ≠ s.connected → i = .pollp) ∧ (t.changed ≠ s.changed → i = .pollp) ∧
    (s.gateOpen = false → t.gateOpen = true → i = .pollp) ∧ (s.gateOpen = true → t.gateOpen = true) ∧
    (s.polled = false → t.polled = true → i = .pollp ∨ i = .pollm) ∧ (s.polled = true → t.polled = true) ∧
    (s.writeLow = false → t.writeLow = true → i = .edge false) ∧
    (s.writeLow = true → t.writeLow = false → ∃ l, i = .edge l) := by
  have hkept := exec_flagsKept hreset h
  refine ⟨fun hne => ?_, fun hne => ?_, fun hb ha => ?_, gateOpen_of_exec hreset h, fun hb ha => ?_,
    polled_of_exec hreset h, falling_of_writeLow hreset h, fun hb ha => ?_⟩
  · exact by_contra fun hi => hne (hkept.consumer hi).1
  · exact by_contra fun hi => hne (hkept.consumer hi).2.1
  · exact by_contra fun hi => false_of_change (hkept.consumer hi).2.2 hb ha
  · refine by_contra fun hi => ?_
    obtain ⟨hpollp, hpollm⟩ := not_or.1 hi
    exact false_of_change (hkept.polled hpollp hpollm) hb ha
  · exact by_contra fun hi => false_of_change (hkept.writeLow fun l e => hi ⟨l, e⟩) hb ha

/-- Settles O54: the capture stage's rows by SAMPLE or not, the consumer's and the line's for every operation. -/
theorem flagsChangeOnlyByTheirTable : Obligations.FlagsChangeOnlyByTheirTable := by
  intro i s t h hreset
  obtain ⟨hconnected, hchanged, hgateSet, hgate, hpolledSet, hpolled, hlowSet, hlowClear⟩ :=
    exec_consumer_flags hreset h
  by_cases hsample : ∃ d, i = .sample d
  · obtain ⟨d, rfl⟩ := hsample
    have hflags := exec_sampleFlags h
    refine ⟨fun hb ha => ⟨d, rfl, hflags.overflow_set hb ha⟩, fun hb ha => ?_,
      fun hb ha => ⟨d, rfl, hflags.captured_set hb ha⟩, fun hb ha => ?_, hconnected, hchanged,
      fun hb ha => ⟨d, rfl, hflags.activity_set hb ha⟩, fun hb ha => ⟨⟨d, rfl⟩, hflags.activity_cleared hb ha⟩,
      fun hb ha => ⟨⟨d, rfl⟩, hflags.skipped_set hb ha⟩, fun hb ha => ⟨⟨d, rfl⟩, hflags.skipped_cleared hb ha⟩,
      fun hb ha => ⟨⟨d, rfl⟩, hflags.panel_set hb ha⟩, fun hb ha => ⟨⟨d, rfl⟩, hflags.panel_cleared hb ha⟩,
      fun hb ha => ⟨⟨d, rfl⟩, hflags.module_set hb ha⟩, fun hb ha => ⟨⟨d, rfl⟩, hflags.module_cleared hb ha⟩,
      hgateSet, hgate, hpolledSet, hpolled, hlowSet, hlowClear⟩
    · cases (hflags.overflow_kept hb).symm.trans ha
    · cases (hflags.captured_kept hb).symm.trans ha
  · have hsample' : ∀ d, i ≠ .sample d := fun d e => hsample ⟨d, e⟩
    have hkept := exec_flagsKept hreset h
    obtain ⟨hP, hM, hactivity, hskipped⟩ := hkept.capture hsample'
    have hPlong := congrArg FrameBuf.overlong hP
    have hMlong := congrArg FrameBuf.overlong hM
    refine ⟨fun hb ha => ?_, fun hb ha => ?_, fun hb ha => ?_, fun hb ha => ?_, hconnected, hchanged,
      fun hb ha => (false_of_change hactivity hb ha).elim, fun hb ha => (false_of_change hactivity hb ha).elim,
      fun hb ha => (false_of_change hskipped hb ha).elim, fun hb ha => (false_of_change hskipped hb ha).elim,
      fun hb ha => (false_of_change hPlong hb ha).elim, fun hb ha => (false_of_change hPlong hb ha).elim,
      fun hb ha => (false_of_change hMlong hb ha).elim, fun hb ha => (false_of_change hMlong hb ha).elim,
      hgateSet, hgate, hpolledSet, hpolled, hlowSet, hlowClear⟩
    · by_cases hack : i = .ackovf
      · subst hack
        cases (overflow_of_exec_ackovf h hb).symm.trans ha
      · exact (false_of_change (hkept.overflow hsample' hack) hb ha).elim
    · exact by_contra fun hack => false_of_change (hkept.overflow hsample' hack) hb ha
    · by_cases hpollm : i = .pollm
      · subst hpollm
        cases (captured_of_exec_pollm h hb).symm.trans ha
      · exact (false_of_change (hkept.captured hsample' hpollm) hb ha).elim
    · exact by_contra fun hpollm => false_of_change (hkept.captured hsample' hpollm) hb ha

end Sys2Proof.Machine
end

section
/-! PROOFS. The invariant of every reachable state (10_state.md R33 to R50, 20_memory.md R82 to R89,
42_write_injector.md R241 to R245): what each shared update keeps, what each operation keeps, and the step. -/

namespace Sys2Proof.Machine

/-! ## The constraints of the parameters the invariant rests on -/

theorem three_le_N_of_valid {p : Params} (h : p.valid = true) : 3 ≤ p.N := by
  simp only [Params.valid, Bool.and_eq_true, decide_eq_true_eq] at h
  tauto

theorem eight_le_wstart_of_valid {p : Params} (h : p.valid = true) : 8 ≤ p.wstart := by
  simp only [Params.valid, Bool.and_eq_true, decide_eq_true_eq] at h
  tauto

/-! ## Power-on -/

theorem length_zeroBytes (n : Nat) : (zeroBytes n).length = n := List.length_replicate

/-- Every buffer is empty and nothing is armed or staged (R331). -/
theorem powerOn_inv {p : Params} (h : p.valid = true) : (State.powerOn p).Inv where
  params_valid := h
  panel_wf := emptyBuf_wf p.N
  module_wf := emptyBuf_wf p.N
  t05_length := length_zeroBytes p.N
  t1B_length := length_zeroBytes p.N
  t0A_length := length_zeroBytes p.N
  tE6_20_length := length_zeroBytes p.N
  tE6_03_length := length_zeroBytes p.N
  tGen_length := length_zeroBytes p.N
  queue_le := Nat.zero_le _
  queue_wf := nofun
  queue_kept := nofun
  slot_wf := emptyEntry_wf p.N
  panelOut_wf := emptyEntry_wf p.N
  moduleOut_wf := emptyEntry_wf p.N
  lastRise_le := Nat.zero_le _
  clockHigh_le := Nat.zero_le _
  lastGap_le := Nat.zero_le _
  doneAt_le := Nat.zero_le _
  alarm_le := nofun
  due_ge := nofun
  due_le := nofun
  high_released := fun _ => rfl
  active_inside := nofun
  active_qualifies := nofun
  active_class := nofun
  handshake_class := nofun
  seq_le := Nat.zero_le _
  disabled_quiet := fun _ => ⟨rfl, rfl, rfl⟩

/-! ## The parts of a completion and of a comparison -/

theorem bits_le_panelAfter (d : Bool) (s : State) : s.P.bits ≤ (panelAfter d s).bits := by
  unfold panelAfter
  split
  · exact captureBit_bits_le _ _ _
  · exact Nat.le_refl _

/-- A tracker of N bytes compared with a frame of N bytes has N bytes (R39, R42). -/
theorem length_ite_tracked {c : Prop} [Decidable c] {T B : List Byte} {n : Nat} (L : Nat) (hT : T.length = n)
    (hB : B.length = n) : (if c then tracked T B L else T).length = n := by
  split
  · exact length_tracked L hT hB
  · exact hT

/-- No pass goes on past a gap (R245). -/
theorem injectorGap_not_active (s : State) : (injectorGap s).wstate ≠ .active := by
  rw [injectorGap_eq]
  dsimp only
  split
  · nofun
  · split
    · nofun
    · assumption

@[simp] theorem loopRemembers_params (e : Entry) (s : State) : (loopRemembers e s).params = s.params := by
  rw [loopRemembers_eq]

/-! ## Updates that touch few of its fields -/

section
variable {s : State} (h : s.Inv)
include h

theorem State.Inv.withPending (bs : List Byte) : (withPending bs s).Inv := { h with }

theorem State.Inv.refuse (r : RefuseReason) : (refuse r s).Inv := { h with }

theorem State.Inv.returns (r : OpResult) : (returns r s).Inv := { h with }

/-- A timer armed now is due one sample delay from now (R47, R164). -/
theorem State.Inv.armTimer : (armTimer s).Inv :=
  { h with
    due_ge := by simp [Machine.armTimer]
    due_le := by simp [Machine.armTimer] }

/-- RESET is power-on at another time (R330). -/
theorem State.Inv.restart : (restart s).Inv :=
  { powerOn_inv h.params_valid with
    lastRise_le := Nat.zero_le _
    clockHigh_le := Nat.zero_le _
    lastGap_le := Nat.zero_le _
    doneAt_le := Nat.zero_le _
    alarm_le := nofun
    due_ge := nofun
    due_le := nofun }

/-! ## The line sampler -/

theorem State.Inv.risingEdge : (risingEdge s).Inv := by
  have hbefore : ({ s with clk := true, lastRise := s.now, writeLow := false } : State).Inv :=
    { h with
      lastRise_le := Nat.le_refl _
      high_released := fun _ => rfl
      disabled_quiet := fun hoff => by
        obtain ⟨hidle, _, hseq⟩ := h.disabled_quiet hoff
        exact ⟨hidle, rfl, hseq⟩ }
  exact hbefore.armTimer

theorem State.Inv.fallen : (fallen s).Inv :=
  { h with
    clockHigh_le := Nat.sub_le _ _
    high_released := nofun }

/-- WAIT stops at an armed deadline (R166). -/
theorem State.Inv.passTime (delta : Nat) : (passTime delta s).Inv := by
  rcases passTime_cases delta s with ⟨_, _, _, e⟩ | ⟨hwithin, e⟩
  · rw [e]
    exact h.refuse _
  · rw [e]
    have hms : s.now / 1000 ≤ (s.now + delta) / 1000 := Nat.div_le_div_right (Nat.le_add_right _ _)
    have hnow : s.now ≤ s.now + delta := Nat.le_add_right _ _
    exact { h with
      lastRise_le := h.lastRise_le.trans hnow
      clockHigh_le := h.clockHigh_le.trans hnow
      lastGap_le := h.lastGap_le.trans hms
      doneAt_le := h.doneAt_le.trans hms
      alarm_le := fun t ht => (h.alarm_le t ht).trans hms
      due_ge := hwithin
      due_le := fun t ht => (h.due_le t ht).trans (Nat.add_le_add_right hnow _) }

/-! ## The injector -/

/-- A driven position keeps the invariant where the clock is low and a write pin is attached (R189, R241). -/
theorem State.Inv.driveBit (hlow : s.clk = false) (hon : s.params.writeEnabled = true) (i : Nat) :
    (driveBit i s).Inv := by
  rw [driveBit_eq]
  exact { h with
    high_released := fun hhigh => by cases hlow.symm.trans hhigh
    disabled_quiet := fun hoff => by cases hon.symm.trans hoff }

/-- The write pin is attached wherever the injector is at work (R223). -/
theorem State.Inv.enabled (hbusy : s.wstate ≠ .idle) : s.params.writeEnabled = true :=
  Bool.eq_true_of_not_eq_false fun hoff => hbusy (h.disabled_quiet hoff).1

/-- The drain after a key, with its stamps (R243, R245). -/
theorem State.Inv.finishKey (hbusy : s.wstate ≠ .idle) : (finishKey s).Inv := by
  have hstamp : ∀ t ∈ (if s.wkey ∈ s.params.alarmKeys then some (s.now / 1000) else s.lastAlarmDone),
      t ≤ s.now / 1000 := by
    split
    · rintro t ht
      cases ht
      exact Nat.le_refl _
    · exact h.alarm_le
  rw [finishKey_eq]
  exact { h with
    doneAt_le := Nat.le_refl _
    alarm_le := hstamp
    active_inside := nofun
    active_qualifies := nofun
    active_class := nofun
    handshake_class := nofun
    disabled_quiet := fun hoff => by cases (h.enabled hbusy).symm.trans hoff }

/-- A command-class key waits between its two passes (R243 to R245). -/
theorem State.Inv.handshake {w : WState} (hbusy : s.wstate ≠ .idle) (hclass : 12 ≤ s.wkey.val) (hw : w ≠ .active) :
    ({ s with wstate := w } : State).Inv :=
  { h with
    active_inside := fun hactive => absurd hactive hw
    active_qualifies := fun hactive => absurd hactive hw
    active_class := fun hactive => absurd hactive hw
    handshake_class := fun _ => hclass
    disabled_quiet := fun hoff => by cases (h.enabled hbusy).symm.trans hoff }

/-- A first pass is a command-class key's (R241). -/
theorem State.Inv.command_of_pass1 (hactive : s.wstate = .active) (hpass : s.wpass = .pass1) : 12 ≤ s.wkey.val := by
  refine Nat.not_lt.1 fun hplain => ?_
  cases hpass.symm.trans ((h.active_class hactive).2 hplain)

theorem State.Inv.passEnd (hactive : s.wstate = .active) : (passEnd s).Inv := by
  have hbusy : s.wstate ≠ .idle := by simp [hactive]
  unfold Machine.passEnd
  split
  next hpass => exact h.handshake hbusy (h.command_of_pass1 hactive hpass) nofun
  next => exact h.finishKey hbusy

/-- The kind of pass that starts is of its key's class (R241, R244). -/
theorem State.Inv.startPass_class :
    startPass s.wstate s.wkey = .plain ↔ s.wkey.val < 12 := by
  rw [startPass_eq]
  split
  next harmed =>
    have := h.handshake_class (.inr harmed)
    exact iff_of_false nofun (by omega)
  next =>
    split
    next hcommand => exact iff_of_false nofun (by omega)
    next hplain => exact iff_of_true rfl (by omega)

/-- The injector at a falling edge (R241 to R243). -/
theorem State.Inv.injectorFalling (hlow : s.clk = false) : (injectorFalling s).Inv := by
  rcases injectorFalling_cases s with ⟨_, e⟩ | ⟨hon, _, ⟨hbits, hid⟩, e⟩ | ⟨hon, hactive, e⟩
  · rwa [e]
  · rw [e]
    exact { h with
      high_released := fun hhigh => by cases hlow.symm.trans hhigh
      active_inside := fun _ => hbits.ge
      active_qualifies := fun _ => hid
      active_class := fun _ => h.startPass_class
      handshake_class := nofun
      disabled_quiet := fun hoff => by cases hon.symm.trans hoff }
  · rw [e]
    have hdriven := h.driveBit hlow hon (windowPosition s)
    split
    · exact hdriven.passEnd (by rwa [driveBit_eq])
    · exact hdriven

theorem State.Inv.clockEdge (l : Bool) : (clockEdge l s).Inv := by
  cases l
  · exact (h.fallen.injectorFalling rfl).armTimer
  · exact h.risingEdge

/-- A gap moves the injector (R245). -/
theorem State.Inv.injectorGap : (injectorGap s).Inv := by
  unfold Machine.injectorGap
  split
  next hwait => exact h.handshake (by simp [hwait]) (h.handshake_class (.inl hwait)) nofun
  next =>
    split
    next hactive =>
      have hbusy : s.wstate ≠ .idle := by simp [hactive]
      split
      next hpass => exact h.handshake hbusy (h.command_of_pass1 hactive hpass) nofun
      next => exact h.finishKey hbusy
    next => exact h

/-- A ready block stages a key (R223, R230). -/
theorem State.Inv.stage {k : Key} {ks : List Key} (hready : Ready s) (hlen : ks.length ≤ s.params.seqCap) :
    ({ s with wkey := k, seq := ks, wstate := .staged } : State).Inv :=
  { h with
    active_inside := nofun
    active_qualifies := nofun
    active_class := nofun
    handshake_class := nofun
    seq_le := hlen
    disabled_quiet := fun hoff => by cases hready.1.symm.trans hoff }

theorem State.Inv.seqAdvance : (seqAdvance s).Inv := by
  rcases seqAdvance_cases s with ⟨k, ks, hseq, hready, _, e⟩ | ⟨_, e⟩
  · have hlen := h.seq_le
    rw [hseq, List.length_cons] at hlen
    rw [e]
    exact h.stage hready (by omega)
  · rwa [e]

theorem State.Inv.writeKey (k : KeyCode) : (writeKey k s).Inv := by
  by_cases haccept : ∃ h : k.toNat < 16, Ready s ∧ FloorElapsed s ⟨k.toNat, h⟩
  · obtain ⟨hvalid, hready, hfloor⟩ := haccept
    rw [writeKey_accepts hvalid hready hfloor]
    exact h.stage hready (Nat.zero_le _)
  · rwa [writeKey_ignores haccept]

/-- The keys of a request are cut to SEQ_CAP (R233). -/
theorem State.Inv.writeSequence (ks : List KeyCode) : (writeSequence ks s).Inv := by
  by_cases hready : Ready s
  · have htaken : ({ s with seq := sequenceKeys s.params ks } : State).Inv :=
      { h with
        seq_le := List.length_take_le _ _
        disabled_quiet := fun hoff => by cases hready.1.symm.trans hoff }
    rw [writeSequence_of_ready ks hready]
    exact htaken.seqAdvance
  · rwa [writeSequence_of_not_ready ks hready]

/-! ## A SAMPLE -/

theorem State.Inv.panelAfter_wf (d : Bool) : (panelAfter d s).WF s.params.N := by
  unfold panelAfter
  split
  · exact captureBit_wf _ h.panel_wf
  · exact h.panel_wf

theorem State.Inv.moduleAfter_wf (d : Bool) : (moduleAfter d s).WF s.params.N := by
  unfold moduleAfter
  split
  · exact captureBit_wf _ h.module_wf
  · exact h.module_wf

/-- A sample inside a window leaves the frame's command id (R84, R242). -/
theorem State.Inv.panelAfter_id (d : Bool) (hactive : s.wstate = .active) :
    byteAt (panelAfter d s).bytes 0 = byteAt s.P.bytes 0 := by
  have hbits := (eight_le_wstart_of_valid h.params_valid).trans (h.active_inside hactive)
  unfold panelAfter
  split
  · exact captureBit_id _ h.panel_wf hbits
  · rfl

theorem State.Inv.handleSample (d : Bool) : (handleSample d s).Inv := by
  rw [handleSample_eq]
  exact { h with
    panel_wf := h.panelAfter_wf d
    module_wf := h.moduleAfter_wf d
    due_ge := nofun
    due_le := nofun
    active_inside := fun hactive => (h.active_inside hactive).trans (bits_le_panelAfter d s)
    active_qualifies := fun hactive => (h.panelAfter_id d hactive).symm ▸ h.active_qualifies hactive }

theorem State.Inv.captureTrackers : (captureTrackers s).Inv := by
  rw [captureTrackers_eq]
  exact { h with
    t05_length := length_ite_tracked _ h.t05_length h.panel_wf.length_eq
    t1B_length := length_ite_tracked _ h.t1B_length h.panel_wf.length_eq }

/-- A frame under construction is an Entry within its bounds (R35). -/
theorem State.Inv.panel_entry : (entryOf s.P).WF s.params.N :=
  entryOf_wf ((by decide : 2 ≤ 3).trans (three_le_N_of_valid h.params_valid)) h.panel_wf

theorem State.Inv.module_entry : (entryOf s.M).WF s.params.N :=
  entryOf_wf ((by decide : 2 ≤ 3).trans (three_le_N_of_valid h.params_valid)) h.module_wf

/-- A frame that is offered is not too short, and finds room or is dropped (R198, R199). -/
theorem State.Inv.offerFrame {discard : Bool} (hkept : discard = false → ¬ TooShort s.P) :
    (offerFrame discard s).Inv := by
  have hentry := h.panel_entry
  rw [offerFrame_eq]
  by_cases hroom : discard = false ∧ s.Q.length ≠ s.params.QCAP
  · simp only [if_pos hroom]
    obtain ⟨hdiscard, hne⟩ := hroom
    have hle := h.queue_le
    exact { h with
      queue_le := by
        rw [List.length_append, List.length_singleton]
        exact Nat.lt_of_le_of_ne hle hne
      queue_wf := List.forall_mem_append.2 ⟨h.queue_wf, List.forall_mem_singleton.2 hentry⟩
      queue_kept := List.forall_mem_append.2
        ⟨h.queue_kept, List.forall_mem_singleton.2 (Nat.not_lt.1 (hkept hdiscard))⟩ }
  · simp only [if_neg hroom]
    exact { h with }

theorem State.Inv.latchModule : (latchModule s).Inv := by
  have hslot : (if s.modActivity = true ∧ s.modSkipped = false then entryOf s.M else s.slot).WF s.params.N := by
    split
    · exact h.module_entry
    · exact h.slot_wf
  rw [latchModule_eq]
  exact { h with slot_wf := hslot }

/-- The scratch is cleared once no pass rides on it (R201, R245). -/
theorem State.Inv.clearScratch (hover : s.wstate ≠ .active) : (clearScratch s).Inv :=
  { h with
    panel_wf := emptyBuf_wf _
    module_wf := emptyBuf_wf _
    clockHigh_le := Nat.zero_le _
    active_inside := fun hactive => absurd hactive hover
    active_qualifies := fun hactive => absurd hactive hover }

/-- The completion sequence, step by step (R196). -/
theorem State.Inv.complete : (complete s).Inv := by
  have hstamped : ({ s with lastGap := ms s.now } : State).Inv := { h with lastGap_le := Nat.le_refl _ }
  have hkept : captureDiscards s = false →
      ¬ TooShort (Machine.captureTrackers { s with lastGap := ms s.now }).P := fun hkeeps hshort => by
    rw [captureTrackers_eq] at hshort
    cases hkeeps.symm.trans ((captureDiscards_iff s).2 (.inl hshort))
  exact (hstamped.captureTrackers.offerFrame hkept).latchModule.injectorGap.clearScratch (injectorGap_not_active _)

theorem State.Inv.takeSample (d : Bool) : (takeSample d s).Inv := by
  unfold Machine.takeSample
  split
  · exact (h.handleSample d).complete
  · exact h.handleSample d

/-! ## The application's calls -/

theorem State.Inv.pollBegun : (pollBegun s).Inv := by
  have hpolled : ({ s with polled := true } : State).Inv := { h with }
  rw [← updateLiveness_seqAdvance]
  exact { hpolled.seqAdvance with }

theorem State.Inv.dequeued {e : Entry} {rest : List Entry} (hQ : s.Q = e :: rest) : (dequeued s rest).Inv := by
  have hrest : ∀ x ∈ rest, x ∈ (Machine.pollBegun s).Q := fun x hx => by
    rw [pollBegun_Q, hQ]
    exact List.mem_cons_of_mem e hx
  have hlen : rest.length ≤ (Machine.pollBegun s).Q.length := by
    rw [pollBegun_Q, hQ]
    exact Nat.le_succ _
  exact { h.pollBegun with
    queue_le := hlen.trans h.pollBegun.queue_le
    queue_wf := fun x hx => h.pollBegun.queue_wf x (hrest x hx)
    queue_kept := fun x hx => h.pollBegun.queue_kept x (hrest x hx) }

/-- The drawn Entry is an Entry (R273). -/
theorem State.Inv.dropFrame : (dropFrame s).Inv :=
  State.Inv.returns (s := { s with panelOut := drawnEntry s.params s.draws, draws := s.draws + 1 })
    { h with panelOut_wf := drawnEntry_wf _ _ } _

theorem State.Inv.surfaceFrame {e : Entry} (he : e.WF s.params.N) : (surfaceFrame e s).Inv :=
  State.Inv.returns (s := { s with panelOut := e }) { h with panelOut_wf := he } _

theorem State.Inv.gateOpened : ({ s with gateOpen := true } : State).Inv := { h with }

theorem State.Inv.loopRemembers {e : Entry} (he : e.WF s.params.N) : (loopRemembers e s).Inv := by
  rw [loopRemembers_eq]
  exact { h with
    t0A_length := length_ite_tracked _ h.t0A_length he.length_eq
    tE6_20_length := length_ite_tracked _ h.tE6_20_length he.length_eq
    tE6_03_length := length_ite_tracked _ h.tE6_03_length he.length_eq }

theorem State.Inv.withTGen {T : List Byte} (hT : T.length = s.params.N) : ({ s with TGen := T } : State).Inv :=
  { h with tGen_length := hT }

/-- What becomes of a dequeued frame (R266 to R273). -/
theorem State.Inv.consumeFrame {e : Entry} (he : e.WF s.params.N) : (consumeFrame e s).Inv := by
  have hpassed := h.gateOpened.loopRemembers he
  have hcompared : (if s.cfgRedundant = true then tracked s.TGen e.bytes s.params.N else s.TGen).length = s.params.N :=
    length_ite_tracked s.params.N h.tGen_length he.length_eq
  rcases consumeFrame_cases e s with ⟨_, heq⟩ | ⟨_, _, heq⟩ | ⟨_, _, _, _, heq⟩ | ⟨_, _, _, heq⟩
  · rw [heq]
    exact h.dropFrame
  · rw [heq]
    exact h.gateOpened.dropFrame
  · rw [heq]
    exact hpassed.dropFrame
  · have hparams : (Machine.loopRemembers e { s with gateOpen := true }).params = s.params := loopRemembers_params e _
    have hsurvives := hpassed.withTGen (hcompared.trans (congrArg Params.N hparams).symm)
    rw [heq]
    exact hsurvives.surfaceFrame (by rwa [hparams])

theorem State.Inv.pollPanel : (pollPanel s).Inv := by
  rcases pollPanel_cases s with ⟨_, e⟩ | ⟨_, _, e⟩ | ⟨hlive, e, rest, hQ, _⟩
  · rw [e]
    exact h.pollBegun.returns _
  · rw [e]
    exact h.pollBegun.returns _
  · have he : e.WF s.params.N := h.queue_wf e (hQ ▸ List.mem_cons_self)
    rw [pollPanel_of_frame hlive hQ]
    exact (h.dequeued hQ).consumeFrame (by rwa [dequeued_params])

theorem State.Inv.pollModule : (pollModule s).Inv := by
  unfold Machine.pollModule
  split
  · exact { h with moduleOut_wf := h.slot_wf }
  · exact { h with }

theorem State.Inv.configure (m r : Bool) : (configure m r s).Inv := by
  unfold Machine.configure
  split
  · exact h.refuse _
  · exact { h with }

/-! ## Operations and steps -/

theorem State.Inv.effect (i : Instr) : (effect i s).Inv := by
  cases i with
  | edge l => exact h.clockEdge l
  | sample d => exact h.takeSample d
  | wrkey k => exact h.writeKey k
  | wrseq ks => exact h.writeSequence ks
  | pollp => exact h.pollPanel
  | pollm => exact h.pollModule
  | status => exact h.returns _
  | ackovf => exact { h with }
  | reset => exact h.restart
  | config m r => exact h.configure m r
  | wait delta => exact h.passTime delta.toNat

theorem State.Inv.exec {i : Instr} {t : State} (hexec : exec i s = .next t) : t.Inv := by
  rcases result_of_exec hexec with rfl | ⟨r, rfl⟩
  · exact h.effect i
  · exact h.refuse r

end

/-- Settles O51: power-on, with any stream presented to it. -/
theorem invariantHoldsAtPowerOn : Obligations.InvariantHoldsAtPowerOn :=
  ⟨fun _ bs h => (powerOn_inv h).withPending bs, powerOn_inv (by decide)⟩

/-- Settles O52: a step waits, refuses the stream, or performs an operation, and each keeps the invariant. -/
theorem stepKeepsTheInvariant : Obligations.StepKeepsTheInvariant := by
  intro s t h hstep
  rcases step_cases s with ⟨_, e⟩ | ⟨_, e⟩ | ⟨_, e⟩ | ⟨i, rest, _, e⟩
  · cases e.symm.trans hstep
    exact h
  · cases e.symm.trans hstep
    exact (h.refuse _).withPending []
  · cases e.symm.trans hstep
    exact (h.refuse _).withPending []
  · exact (h.withPending rest).exec (e.symm.trans hstep)

/-- Settles O50: every field that a restart keeps has its power-on value by hypothesis. -/
theorem powerOnIsResetAtTimeZero : Obligations.PowerOnIsResetAtTimeZero := by
  intro s hnow hrefusals hpending hresult hdraws
  rw [exec_reset, restart, hnow, hrefusals, hpending, hresult, hdraws]
  rfl

end Sys2Proof.Machine
end
